-- ==== Sys2Proof/Word.lean ====
section
/-! DEFINITION. The word types of the block and the small enumerations its encodings name (00_scope.md R9, R10;
30_encoding.md R91, R92), and the three kinds of input the decoder reads. No arithmetic stands here. -/

namespace Sys2Proof

/-- An octet, bits numbered from 0 at the least significant (R9). -/
abbrev Byte := BitVec 8

/-- A character: a 7-bit ASCII code (R10). -/
abbrev Ch := BitVec 7

/-- The modulus a decode assumes (R92, R176): `NONE`, `M8`, `M128`. -/
inductive Modulus where
  | nomod
  | m8
  | m128
  deriving DecidableEq, Repr

/-- The four supervisory subtypes (R91). -/
inductive Supervisory where
  | rr
  | rnr
  | rej
  | srej
  deriving DecidableEq, Repr

/-- What the decoder reads: one carried input of the block. How a request is carried is not specified (R100);
the three kinds and their octets are the model's own (DESIGN CHOICE, log entries 1 and 2). -/
inductive Item where
  /-- An operation request: the command code of R100, then its operands. -/
  | request (octets : List Byte)
  /-- A control field on its own, from its first octet, with the modulus it is read under. -/
  | control (m : Modulus) (octets : List Byte)
  /-- One `ADDR7` address block on its own. -/
  | address (octets : List Byte)
  deriving DecidableEq, Repr

/-- Why the decoder gives no instruction. The block answers each (`answerUndecodable`). -/
inductive DecodeError where
  /-- A request whose command code is not in the table of R100 (the block refuses it: `unknown-op`). -/
  | unknownOp (code : Byte)
  /-- A request of no octets: no command code. -/
  | noOctets
  /-- The command code is known, the octets after it are not the operands it takes. -/
  | badOperands (code : Byte)
  /-- A control field of no octets. -/
  | noControl
  /-- A 16-bit control field without its second octet. -/
  | shortControl
  /-- An address block of fewer than 7 octets, and how many there are. -/
  | shortAddress (remain : Nat)
  deriving DecidableEq, Repr

end Sys2Proof
end

