-- ==== Sys2Proof/Config.lean ====
section
/-! DEFINITION. What an implementation fixes (the suggested defaults of 00_scope.md R8) and the free values the
spec leaves open. The four parameters are held in State, so that no theorem depends on these defaults (R8: "No
rule depends on the default"); the numbers here are used by `State.reset` alone (DESIGN CHOICE, log entry 7). -/

namespace Sys2Proof.Config

/-- `NSLOT`, suggested default (R8). -/
def nslot : Nat := 4

/-- `LEN_MAX`, suggested default (R8). -/
def lenMax : Nat := 330

/-- `RPT_MAX`, suggested default (R8). -/
def rptMax : Nat := 8

/-- `TS_W`, suggested default (R8). -/
def tsW : Nat := 64

/-- FREE VALUE: the value on the `TIME` input at its n-th sample, under no law (10_state.md R32: "a free input of
the step (a draw) under no law"; log entry 8). The sampler keeps its low `TS_W` bits. -/
opaque timeInput : Nat → Nat

/-- FREE VALUE: what `IBUF` gives at an offset nothing has written (10_state.md R34; 93 U2: "any value"; log
entry 9). -/
opaque unwrittenOctet : Nat → Byte

end Sys2Proof.Config
end

