-- ==== Sys2Proof/Machine/State.lean ====
section
/-! DEFINITION. The state of the block as plain data (10_state.md), the outcomes an operation can have
(60_exceptions.md R260), the host's acts (00_scope.md R13), and the state after reset (R34, R290). -/

namespace Sys2Proof.Machine

/-! ## Values -/

/-- An Address (R21). That `call` is 1 to 6 characters of `A`-`Z`, `0`-`9` is `Address.valid`. -/
structure Address where
  call : List Ch
  ssid : BitVec 4
  ch   : Bool
  rsv  : BitVec 2
  ext  : Bool
  deriving DecidableEq, Repr

/-- The variant tag `var` of a frame (R22, R23; the codes are R100's). -/
inductive Variant where
  | raw
  | ui
  | i8
  | i16
  | rr8
  | rnr8
  | rej8
  | srej8
  | rr16
  | rnr16
  | rej16
  | srej16
  deriving DecidableEq, Repr

/-- The body fields of a frame (R23); each supervisory family carries its subtype. -/
inductive Body where
  | raw (payload : List Byte)
  | ui (pf : Bool) (pid : Byte) (payload : List Byte)
  | i8 (ns nr : BitVec 3) (pf : Bool) (pid : Byte) (payload : List Byte)
  | i16 (ns nr : BitVec 7) (pf : Bool) (pid : Byte) (payload : List Byte)
  | s8 (st : Supervisory) (nr : BitVec 3) (pf : Bool)
  | s16 (st : Supervisory) (nr : BitVec 7) (pf : Bool)
  deriving DecidableEq, Repr

/-- A frame record (R22). The variant tag is the body's. -/
structure Frame where
  dest : Address
  src  : Address
  rpt  : List Address
  ts   : Nat
  dl   : Option Nat
  body : Body
  deriving DecidableEq, Repr

/-- The class of a control field (R87, R140). -/
inductive FrameClass where
  | information
  | supervisory
  | unnumbered
  deriving DecidableEq, Repr

/-- A control field's format with its fields (R142). -/
inductive ControlField where
  | ui (pf : Bool)
  | i8 (ns nr : BitVec 3) (pf : Bool)
  | s8 (st : Supervisory) (nr : BitVec 3) (pf : Bool)
  | i16 (ns nr : BitVec 7) (pf : Bool)
  | s16 (st : Supervisory) (nr : BitVec 7) (pf : Bool)
  deriving DecidableEq, Repr

/-- What `ctl_dec` returns when it does not raise (R142): a claim with its length in octets, or `unrecognised`. -/
inductive CtlResult where
  | claim (field : ControlField) (hl : Nat)
  | unrecognised
  deriving DecidableEq, Repr

/-! ## Outcomes of an operation -/

/-- What an `InsufficientData` fault misses (the words in parentheses of R142, R170 to R179). -/
inductive Missing where
  | addressBlock
  | sourceAddress
  | controlOctet
  | secondControlOctet
  | pid
  deriving DecidableEq, Repr

/-- What a `MalformedAddress` fault reports (R121, R123, R124). -/
inductive BadAddress where
  | block (octets : List Byte)
  | short (remain : Nat)
  | operand (call : List Ch) (ssid : Nat)
  deriving DecidableEq, Repr

/-- The three hard errors (R261, R262, R263). The information they carry is diagnostic (R266). -/
inductive CodecFault where
  | insufficientData (what : Missing)
  | malformedAddress (info : BadAddress)
  | deadlineImmutable
  deriving DecidableEq, Repr

/-- The reasons of a refused request (R265). -/
inductive RefuseReason where
  | unknownOp
  | badSlot
  | emptySlot
  | badModulus
  | tooManyRepeaters
  | tooLong
  | fieldRange
  | emptyRawPayload
  deriving DecidableEq, Repr

/-- How an operation ends when it does not end `ok` (R5, R11): `raise E` or `refuse(reason)`. The machine goes on
after both (R266, R270). -/
inductive Stop where
  | raise (e : CodecFault)
  | refuse (r : RefuseReason)
  deriving DecidableEq, Repr

/-- What `FGET` returns for a frame (R218): variant code, `cr`, and the record. -/
structure FrameRecord where
  variant : BitVec 4
  cr      : Bool
  frame   : Frame
  deriving DecidableEq, Repr

/-- The result value of an operation that ends `ok` (R5, R6). -/
inductive Result where
  /-- The rule names no result value. -/
  | unit
  /-- `AMK`, `ADEC`, and an address block on its own. -/
  | address (a : Address)
  /-- `CCLS`, and a control field on its own (R141). -/
  | classified (cls : FrameClass) (dec : CtlResult)
  /-- A raw region on its own: the body promotion gives it (R173, R180). -/
  | promoted (b : Body)
  /-- `FGET`: `none` for `EMPTY`. -/
  | frame (f : Option FrameRecord)
  /-- `GETTS`. -/
  | timestamp (v : Nat)
  /-- `GETDL`. -/
  | deadline (v : Option Nat)
  deriving DecidableEq, Repr

/-- The response of the most recent operation (R5, R6). -/
inductive Response where
  /-- No operation has been performed since reset. -/
  | idle
  | ok (r : Result)
  | fault (e : CodecFault)
  | refused (r : RefuseReason)
  deriving DecidableEq, Repr

/-! ## The host's acts -/

/-- One act of the host, between operations (R13, R290). -/
inductive HostEvent where
  /-- Something for the block to perform: a request, or a bare field of the formats (log entry 2). -/
  | item (it : Item)
  /-- Octets written to `IBUF` from an offset. -/
  | writeIbuf (off : Nat) (octets : List Byte)
  /-- `ILEN` written. -/
  | setIlen (n : Nat)
  /-- `TIME` held at a value, or given over to an outside clock (`none`). -/
  | driveTime (v : Option Nat)
  /-- The block's one reset (R290). -/
  | reset
  deriving DecidableEq, Repr

/-! ## The state -/

/-- The open parameters of R8. `NSLOT` is the number of slots. -/
structure Params where
  lenMax : Nat
  rptMax : Nat
  tsW    : Nat
  deriving DecidableEq, Repr

/-- The block's state. `IBUF` and `OBUF` are lists of (offset, octet) pairs in the canonical form of `Memory.wf`. -/
structure State where
  /-- The parameters of this block; no step changes them. -/
  params : Params
  /-- `F[0] .. F[NSLOT-1]`, `none` for `EMPTY` (R20). -/
  slots : List (Option Frame)
  /-- `STATUS` (R29). -/
  status : BitVec 8
  /-- `IBUF` (R31, R50). -/
  ibuf : List Host.Cell
  /-- `ILEN` (R30). -/
  ilen : Nat
  /-- `OBUF` (R31, R50, R56). -/
  obuf : List Host.Cell
  /-- `OLEN` (R30). -/
  olen : Nat
  /-- The response of the last operation (R6). -/
  resp : Response
  /-- The model's own: the level held on the `TIME` input, `none` while an outside clock drives it (R32). -/
  time : Option Nat
  /-- The model's own: how many samples of `TIME` have been taken; the argument of `Config.timeInput`. -/
  timeDraws : Nat
  /-- The model's own: the host's pending acts, the next one first (R4, R13). -/
  inbox : List HostEvent
  deriving DecidableEq, Repr

/-! ## What stops the model -/

/-- Breaches of the host's duty (R13) to which the spec gives "no meaning at all (not even `refused`)" (R265). Each
is safe: the model stops where a real block would go on in some unknown way. -/
inductive Fault where
  /-- Raised by the host act `setIlen n` with `n > LEN_MAX` (R13, R265). Safe. -/
  | ilenAboveLenMax
  /-- Raised by the host act `writeIbuf` that reaches beyond `IBUF[LEN_MAX-1]` (R13, R50). Safe. -/
  | ibufOutOfRange
  /-- Raised by the host act `driveTime (some v)` with `v` wider than `TS_W` bits (R32). Safe. -/
  | timeTooWide
  deriving DecidableEq, Repr

/-- What has no meaning in this model: nothing, since every input is answered by the block. -/
inductive Refusal where
  /-- Raised by an arm of `exec` that has no meaning yet; no arm of this model does. Safe. -/
  | notModelled (mnemonic : String)
  deriving DecidableEq, Repr

/-! ## Reset -/

/-- The state after reset of a block with `nslot` slots and parameters `p` (R34, R290): every slot `EMPTY`,
`STATUS`, `OLEN`, `ILEN` 0, no octet of `IBUF` or `OBUF` holding a value. -/
def State.resetWith (p : Params) (nslot : Nat) : State where
  params := p
  slots := List.replicate nslot none
  status := 0x00
  ibuf := []
  ilen := 0
  obuf := []
  olen := 0
  resp := .idle
  time := none
  timeDraws := 0
  inbox := []

/-- The machine right after reset, with the suggested default parameters of R8 (log entry 7). -/
def State.reset : State :=
  State.resetWith ⟨Config.lenMax, Config.rptMax, Config.tsW⟩ Config.nslot

end Sys2Proof.Machine
end

