-- ==== Sys2Proof/Machine/Flags.lean ====
section
/-! DEFINITION. `STATUS`: its layout, its codes, and the value each kind of outcome leaves in it (10_state.md R29;
60_exceptions.md R260, R266; the variant codes of 30_encoding.md R100). -/

namespace Sys2Proof.Machine

/-- `STATUS` from its fields: `VAR` 7:4, `UCF` 3, `ERR` 2:0 (R29). -/
def statusWord (err : BitVec 3) (ucf : Bool) (var : BitVec 4) : BitVec 8 :=
  var ++ BitVec.ofBool ucf ++ err

def statusErr (w : BitVec 8) : BitVec 3 := w.extractLsb' 0 3

def statusUcf (w : BitVec 8) : Bool := w.getLsbD 3

def statusVar (w : BitVec 8) : BitVec 4 := w.extractLsb' 4 4

/-- The codes of the three faults (R261, R262, R263). -/
def faultCode : CodecFault → BitVec 3
  | .insufficientData _ => 1
  | .malformedAddress _ => 2
  | .deadlineImmutable => 3

/-- `ERR` after an operation that did not end `ok`; every refusal is 7 (R265). -/
def stopCode : Stop → BitVec 3
  | .raise e => faultCode e
  | .refuse _ => 7

/-- `STATUS` after an `ok` operation. -/
def okStatus (ucf : Bool) (var : BitVec 4) : BitVec 8 := statusWord 0 ucf var

/-- `STATUS` after a fault or a refusal: `UCF = 0`, `VAR = 0` (R266). -/
def stopStatus (e : Stop) : BitVec 8 := statusWord (stopCode e) false 0

/-- The variant codes of R100; 0 is "none". -/
def variantCode : Variant → BitVec 4
  | .raw => 1
  | .ui => 2
  | .i8 => 3
  | .i16 => 4
  | .rr8 => 5
  | .rnr8 => 6
  | .rej8 => 7
  | .srej8 => 8
  | .rr16 => 9
  | .rnr16 => 10
  | .rej16 => 11
  | .srej16 => 12

/-- The variant tag of a body (R23). -/
def bodyVariant : Body → Variant
  | .raw _ => .raw
  | .ui .. => .ui
  | .i8 .. => .i8
  | .i16 .. => .i16
  | .s8 .rr .. => .rr8
  | .s8 .rnr .. => .rnr8
  | .s8 .rej .. => .rej8
  | .s8 .srej .. => .srej8
  | .s16 .rr .. => .rr16
  | .s16 .rnr .. => .rnr16
  | .s16 .rej .. => .rej16
  | .s16 .srej .. => .srej16

/-- The variant code of a frame, as `STATUS.VAR` and `FGET` report it. -/
def frameCode (f : Frame) : BitVec 4 := variantCode (bodyVariant f.body)

/-- The message the source gives a fault (R275). The block stores none; it is listed for a host's wrapper. -/
def faultMessage : CodecFault → Option String
  | .insufficientData _ => some "Insufficient packet data"
  | .malformedAddress _ => none
  | .deadlineImmutable => some "Deadline may not be changed after being set"

end Sys2Proof.Machine
end

