-- ==== Sys2Proof/Machine/Ops.lean ====
section
/-! DEFINITION. The named operations over the buffers, the slots, `TIME` and the response, and the one place where
an operation ends: `ok`, or with a fault or a refusal (00_scope.md R5, R11; 60_exceptions.md R266). -/

namespace Sys2Proof.Machine

/-! ## Octet strings (R10) -/

/-- `s[i]`; the rules index only inside the string. -/
def octet (s : List Byte) (i : Nat) : Byte := s.getD i 0

/-- `s[off .. off+n)`. -/
def slice (s : List Byte) (off n : Nat) : List Byte := (s.drop off).take n

/-- One bit as an octet, for assembly with shifts and `|`. -/
def bit8 (b : Bool) : Byte := (BitVec.ofBool b).setWidth 8

/-! ## Octet memories -/

/-- A buffer: (offset, octet) pairs, offsets strictly rising. -/
abbrev Memory := List Host.Cell

/-- What an unlisted offset reads as: no value (R34: "must treat the octet as holding no value"). -/
def Memory.unlisted (_off : Nat) : Option Byte := none

/-- The octet at an offset. -/
def Memory.get : Memory → Nat → Option Byte
  | [], a => Memory.unlisted a
  | c :: m, a => if c.1 = a then some c.2 else Memory.get m a

/-- Offsets strictly rising. -/
def Memory.rising : Memory → Bool
  | [] => true
  | [_] => true
  | c :: c' :: m => decide (c.1 < c'.1) && Memory.rising (c' :: m)

/-- The canonical form: offsets strictly rising, and no entry equal to what an unlisted offset reads as. -/
def Memory.wf (m : Memory) : Bool :=
  Memory.rising m && m.all fun c => some c.2 != Memory.unlisted c.1

/-- Writes one octet. -/
def Memory.set : Memory → Nat → Byte → Memory
  | [], a, v => [(a, v)]
  | c :: m, a, v =>
    if a < c.1 then (a, v) :: c :: m
    else if a = c.1 then (a, v) :: m
    else c :: Memory.set m a v

/-- Writes octets at rising offsets. -/
def Memory.store : Memory → Nat → List Byte → Memory
  | m, _, [] => m
  | m, a, v :: vs => Memory.store (Memory.set m a v) (a + 1) vs

/-- The memory that holds exactly these octets, from an offset on. -/
def Memory.ofOctets : Nat → List Byte → Memory
  | _, [] => []
  | a, v :: vs => (a, v) :: Memory.ofOctets (a + 1) vs

/-! ## Reading `IBUF` -/

/-- The octet of `IBUF` at an offset; one that nothing has written is a free value (U2, log entry 9). -/
def State.ibufOctet (s : State) (a : Nat) : Byte :=
  (Memory.get s.ibuf a).getD (Config.unwrittenOctet a)

/-- `MemRead(off, n)` (R11). -/
def State.memRead (s : State) (off n : Nat) : List Byte :=
  (List.range' off n).map s.ibufOctet

/-- The octets of `IBUF[0 .. ILEN)`. -/
def State.input (s : State) : List Byte := s.memRead 0 s.ilen

/-! ## Slots (R20, R35) -/

/-- `NSLOT`. -/
def State.nslot (s : State) : Nat := s.slots.length

/-- The frame in a slot, `none` for `EMPTY`. -/
def State.slot (s : State) (i : Nat) : Option Frame := (s.slots.getD i none)

/-- `F[i] <- v`. -/
def State.setSlot (s : State) (i : Nat) (v : Option Frame) : State :=
  { s with slots := s.slots.set i v }

/-! ## The `TIME` input (R32) -/

/-- `TIME()`: `TS_W` bits of the level the host holds, or of a free draw. -/
def State.timeNow (s : State) : Nat :=
  (match s.time with
   | some v => v
   | none => Config.timeInput s.timeDraws) % 2 ^ s.params.tsW

/-- The state after one sample of `TIME`. -/
def State.timeTaken (s : State) : State := { s with timeDraws := s.timeDraws + 1 }

/-! ## Ends of an operation -/

/-- The end of an `ok` operation: `STATUS` and the response. -/
def State.answer (s : State) (ucf : Bool) (var : BitVec 4) (r : Result) : State :=
  { s with status := okStatus ucf var, resp := .ok r }

/-- The response of an operation that did not end `ok`. -/
def stopResponse : Stop → Response
  | .raise e => .fault e
  | .refuse r => .refused r

/-- TAKING A FAULT OR A REFUSAL (R266): `STATUS` becomes the code with `UCF = 0`, `VAR = 0`, the response carries
the error, and nothing else changes: no vector, no saved counter, no mode. There is no return from it (R270): the
next operation runs as it would have. -/
def State.stop (s : State) (e : Stop) : State :=
  { s with status := stopStatus e, resp := stopResponse e }

/-- The outcome of an operation computed as a next state or a `Stop`: both are next states of the block. -/
def conclude (s : State) (r : Except Stop State) : Host.Outcome State Fault Refusal :=
  match r with
  | .ok t => .next t
  | .error e => .next (s.stop e)

/-- `if c: refuse(r)` (R11). -/
def refuseIf (c : Prop) [Decidable c] (r : RefuseReason) : Except Stop Unit :=
  if c then .error (.refuse r) else .ok ()

/-- `if c: raise E` (R11). -/
def raiseIf (c : Prop) [Decidable c] (e : CodecFault) : Except Stop Unit :=
  if c then .error (.raise e) else .ok ()

/-- The octets of `OBUF` and `OLEN` replaced by a result (R56): the octets beyond it hold no value. -/
def State.emit (s : State) (r : List Byte) : State :=
  { s with obuf := Memory.ofOctets 0 r, olen := r.length }

/-- An operation that produces octets (R56): refused when they exceed `LEN_MAX` (the reason is DEDUCED, log entry
12), else written to `OBUF`. -/
def State.produce (s : State) (r : List Byte) : Except Stop State :=
  if s.params.lenMax < r.length then .error (.refuse .tooLong)
  else .ok ((s.emit r).answer false 0 .unit)

/-- An operation that writes a frame to a slot and reports its variant (R29). -/
def State.deliver (s : State) (d : Nat) (f : Frame) (ucf : Bool) : State :=
  (s.setSlot d (some f)).answer ucf (frameCode f) .unit

end Sys2Proof.Machine
end

