-- ==== Sys2Proof/Machine/AddressFormat.lean ====
section
/-! DEFINITION. The address format `ADDR7` and the address codec's functions: callsign validity (R120),
`addr_dec7` (R121), `addr_enc7` (R122), and the address text (30_encoding.md R98). -/

namespace Sys2Proof.Machine

/-- The space, code 0x20. -/
def space : Ch := 0x20

/-- `A`-`Z` or `0`-`9`. -/
def isCallChar (c : Ch) : Bool :=
  (decide (0x41 ≤ c.toNat) && decide (c.toNat ≤ 0x5A)) || (decide (0x30 ≤ c.toNat) && decide (c.toNat ≤ 0x39))

/-- `valid_call(call)` (R120). -/
def validCall (call : List Ch) : Bool :=
  decide (1 ≤ call.length) && decide (call.length ≤ 6) && call.all isCallChar

/-- `pad6(call)` (R120). -/
def pad6 (call : List Ch) : List Ch := call ++ List.replicate (6 - call.length) space

/-- `trim(c)` (R120), for a `c` with `valid6`. -/
def trim (c : List Ch) : List Ch := c.takeWhile isCallChar

/-- `valid6(c)` (R120): six characters, one or more of `A`-`Z`, `0`-`9`, then only spaces. -/
def valid6 (c : List Ch) : Bool :=
  c.length == 6 && !(trim c).isEmpty && (c.dropWhile isCallChar).all (· == space)

/-- The six characters of an address block: each octet shifted right by one (R81). Bit 0 is not looked at (R83). -/
def blockChars (o : List Byte) : List Ch := (o.take 6).map fun b : Byte => (b >>> 1 : Byte).setWidth 7

/-- `addr_dec7(o)` (R121), for an octet string of length 7; the seventh octet's fields are R82's. -/
def addrDec7 (o : List Byte) : Except Stop Address :=
  let f := octet o 6
  if valid6 (blockChars o) then
    .ok { call := trim (blockChars o), ssid := f.extractLsb' 1 4, ch := f.getLsbD 7, rsv := f.extractLsb' 5 2,
          ext := f.getLsbD 0 }
  else .error (.raise (.malformedAddress (.block o)))

/-- The seventh octet of an address (R82). -/
def ssidOctet (a : Address) : Byte :=
  (bit8 a.ch <<< 7) ||| (a.rsv.setWidth 8 <<< 5) ||| (a.ssid.setWidth 8 <<< 1) ||| bit8 a.ext

/-- `addr_enc7(a)` (R122). -/
def addrEnc7 (a : Address) : List Byte :=
  (pad6 a.call).map (fun c : Ch => (c.setWidth 8 : Byte) <<< 1) ++ [ssidOctet a]

/-- The SSID in decimal: one digit for 1 to 9, `1` and `ssid - 10` for 10 to 15 (R98, R99). -/
def ssidText (ssid : BitVec 4) : List Byte :=
  if ssid.toNat < 10 then [BitVec.ofNat 8 (0x30 + ssid.toNat)]
  else [0x31, BitVec.ofNat 8 (0x30 + (ssid.toNat - 10))]

/-- `astr(a)` (R98): the callsign, then `-` and the SSID unless it is 0. -/
def astr (a : Address) : List Byte :=
  a.call.map (fun c : Ch => (c.setWidth 8 : Byte)) ++ (if a.ssid = 0 then [] else 0x2D :: ssidText a.ssid)

/-- The constraint of the type of R21. -/
def Address.valid (a : Address) : Bool := validCall a.call

end Sys2Proof.Machine
end

