-- ==== Sys2Proof/Machine/ControlFormat.lean ====
section
/-! DEFINITION. The control formats and the classifier's functions: `class_of` (R140), `ctl_dec` (R142), `ctl_enc`
(R154), and one definition for each format rule (R143 to R153, R156). -/

namespace Sys2Proof.Machine

/-- The supervisory subtype codes (R91). -/
def stCode : Supervisory → BitVec 2
  | .rr => 0
  | .rnr => 1
  | .rej => 2
  | .srej => 3

/-- The subtype of a code; all four are assigned (R91). -/
def stOfCode (c : BitVec 2) : Supervisory :=
  if c = 0 then .rr else if c = 1 then .rnr else if c = 2 then .rej else .srej

/-- `class_of(c0)` (R140). -/
def classOf (c0 : Byte) : FrameClass :=
  if c0.getLsbD 0 = false then .information
  else if c0.getLsbD 1 = false then .supervisory
  else .unnumbered

/-- The fields of an `I8` octet (R143). -/
def fieldI8 (c0 : Byte) : ControlField := .i8 (c0.extractLsb' 1 3) (c0.extractLsb' 5 3) (c0.getLsbD 4)

/-- The fields of an `S8` octet (R144, R146, R147, R156). -/
def fieldS8 (c0 : Byte) : ControlField :=
  .s8 (stOfCode (c0.extractLsb' 2 2)) (c0.extractLsb' 5 3) (c0.getLsbD 4)

/-- The fields of an `I16` field (R145). -/
def fieldI16 (c0 c1 : Byte) : ControlField := .i16 (c0.extractLsb' 1 7) (c1.extractLsb' 1 7) (c1.getLsbD 0)

/-- The fields of an `S16` field (R148 to R151). -/
def fieldS16 (c0 c1 : Byte) : ControlField :=
  .s16 (stOfCode (c0.extractLsb' 2 2)) (c1.extractLsb' 1 7) (c1.getLsbD 0)

/-- `ctl_dec(p, m)` (R142), for a non-empty `p` (an empty one has no control octet, R141). -/
def ctlDec (p : List Byte) (m : Modulus) : Except Stop CtlResult :=
  match p with
  | [] => .error (.raise (.insufficientData .controlOctet))
  | c0 :: t =>
    match classOf c0 with
    | .unnumbered =>
      if c0 &&& 0xEF = 0x03 then .ok (.claim (.ui (c0.getLsbD 4)) 1) else .ok .unrecognised
    | .supervisory =>
      match m with
      | .nomod => .ok .unrecognised
      | .m8 => .ok (.claim (fieldS8 c0) 1)
      | .m128 =>
        if c0.extractLsb' 4 4 ≠ 0 then .ok .unrecognised
        else
          match t with
          | [] => .error (.raise (.insufficientData .secondControlOctet))
          | c1 :: _ => .ok (.claim (fieldS16 c0 c1) 2)
    | .information =>
      match m with
      | .nomod => .ok .unrecognised
      | .m8 => .ok (.claim (fieldI8 c0) 1)
      | .m128 =>
        match t with
        | [] => .error (.raise (.insufficientData .secondControlOctet))
        | c1 :: _ => .ok (.claim (fieldI16 c0 c1) 2)

/-- `ctl_enc(fmt, fields)` (R154). -/
def ctlEnc : ControlField → List Byte
  | .ui pf => [0x03 ||| (bit8 pf <<< 4)]
  | .i8 ns nr pf => [(nr.setWidth 8 <<< 5) ||| (bit8 pf <<< 4) ||| (ns.setWidth 8 <<< 1)]
  | .s8 st nr pf => [(nr.setWidth 8 <<< 5) ||| (bit8 pf <<< 4) ||| ((stCode st).setWidth 8 <<< 2) ||| 0x01]
  | .i16 ns nr pf => [ns.setWidth 8 <<< 1, (nr.setWidth 8 <<< 1) ||| bit8 pf]
  | .s16 st nr pf => [((stCode st).setWidth 8 <<< 2) ||| 0x01, (nr.setWidth 8 <<< 1) ||| bit8 pf]

end Sys2Proof.Machine
end

