-- ==== Sys2Proof/Machine/FrameFormat.lean ====
section
/-! DEFINITION. Whole frames as octets: the two phases of decoding (42_frame_parser.md R170 to R180) and encoding
(43_frame_assembler.md R213, R214), structural validity and equality of frames (10_state.md R25 to R27), and the
well-formed octet strings (30_encoding.md R97). -/

namespace Sys2Proof.Machine

/-! ## Phase 1 -/

/-- The loop of `scan_addresses` (R170), entered with `k` addresses scanned and `pos = 7*k`; it gives the number of
addresses. The first argument bounds the recursion: each turn takes 7 octets, so the length of `b` is never used
up (with no turn left no address block remains). -/
def scanLoop (b : List Byte) : Nat → Nat → Except Stop Nat
  | 0, _ => .error (.raise (.insufficientData .addressBlock))
  | fuel + 1, k =>
    if (octet b (7 * k - 1)).getLsbD 0 = false then
      if b.length < 7 * k + 7 then .error (.raise (.insufficientData .addressBlock))
      else scanLoop b fuel (k + 1)
    else if b.length < 7 * k + 1 then .error (.raise (.insufficientData .controlOctet))
    else .ok k

/-- `scan_addresses(b)` (R170): the number `k` of addresses; the control field begins at `7*k`. -/
def scanAddresses (b : List Byte) : Except Stop Nat :=
  if b.length < 14 then .error (.raise (.insufficientData .addressBlock))
  else if (octet b 6).getLsbD 0 = true then .error (.raise (.insufficientData .sourceAddress))
  else scanLoop b b.length 2

/-- The address blocks `i`, `i+1`, … of `b` in increasing order; the lowest bad one reports (R171). -/
def decodeBlocks (b : List Byte) : Nat → Nat → Except Stop (List Address)
  | _, 0 => .ok []
  | i, n + 1 =>
    match addrDec7 (slice b (7 * i) 7) with
    | .error e => .error e
    | .ok a =>
      match decodeBlocks b (i + 1) n with
      | .error e => .error e
      | .ok rest => .ok (a :: rest)

/-- The addresses and the payload of a raw frame. -/
structure RawParts where
  dest    : Address
  src     : Address
  rpt     : List Address
  payload : List Byte
  deriving DecidableEq, Repr

/-- `parse_raw(b)` (R171), with the block's `RPT_MAX`. -/
def parseRaw (rptMax : Nat) (b : List Byte) : Except Stop RawParts :=
  match scanAddresses b with
  | .error e => .error e
  | .ok k =>
    if rptMax < k - 2 then .error (.refuse .tooManyRepeaters)
    else
      match addrDec7 (slice b 0 7) with
      | .error e => .error e
      | .ok dest =>
        match addrDec7 (slice b 7 7) with
        | .error e => .error e
        | .ok src =>
          match decodeBlocks b 2 (k - 2) with
          | .error e => .error e
          | .ok rpt => .ok ⟨dest, src, rpt, b.drop (7 * k)⟩

/-! ## Phase 2 -/

/-- `promote(f, m)` (R173 to R180) on the payload `p` of a raw frame: the body, and `ucf`. Addresses and metadata
are the operation's business (R183). -/
def promote (p : List Byte) (m : Modulus) : Except Stop (Body × Bool) :=
  match ctlDec p m with
  | .error e => .error e
  | .ok .unrecognised => .ok (.raw p, true)
  | .ok (.claim (.ui pf) _) =>
    if p.length < 2 then .error (.raise (.insufficientData .pid))
    else .ok (.ui pf (octet p 1) (p.drop 2), false)
  | .ok (.claim (.s8 st nr pf) _) =>
    if p.length ≠ 1 then .ok (.raw p, true) else .ok (.s8 st nr pf, false)
  | .ok (.claim (.s16 st nr pf) _) =>
    if p.length ≠ 2 then .ok (.raw p, true) else .ok (.s16 st nr pf, false)
  | .ok (.claim (.i8 ns nr pf) _) =>
    if p.length < 2 then .error (.raise (.insufficientData .pid))
    else .ok (.i8 ns nr pf (octet p 1) (p.drop 2), false)
  | .ok (.claim (.i16 ns nr pf) _) =>
    if p.length < 3 then .error (.raise (.insufficientData .pid))
    else .ok (.i16 ns nr pf (octet p 2) (p.drop 3), false)

/-- Promotion of a frame of any variant: a typed frame is returned as it is (R182). -/
def promoteBody (b : Body) (m : Modulus) : Except Stop (Body × Bool) :=
  match b with
  | .raw p => promote p m
  | b => .ok (b, false)

/-- Both phases (R181): the addresses, the body and `ucf`. -/
def decodeFrame (rptMax : Nat) (b : List Byte) (m : Modulus) : Except Stop (RawParts × Body × Bool) :=
  match parseRaw rptMax b with
  | .error e => .error e
  | .ok r =>
    match promote r.payload m with
    | .error e => .error e
    | .ok (body, ucf) => .ok (r, body, ucf)

/-- A frame with given addresses and body (R172, R181). -/
def RawParts.frame (r : RawParts) (body : Body) (ts : Nat) : Frame :=
  { dest := r.dest, src := r.src, rpt := r.rpt, ts := ts, dl := none, body := body }

/-! ## Encoding -/

/-- `frame_body(f)` (R213). -/
def bodyBytes : Body → List Byte
  | .raw payload => payload
  | .ui pf pid payload => ctlEnc (.ui pf) ++ [pid] ++ payload
  | .i8 ns nr pf pid payload => ctlEnc (.i8 ns nr pf) ++ [pid] ++ payload
  | .i16 ns nr pf pid payload => ctlEnc (.i16 ns nr pf) ++ [pid] ++ payload
  | .s8 st nr pf => ctlEnc (.s8 st nr pf)
  | .s16 st nr pf => ctlEnc (.s16 st nr pf)

/-- `frame_bytes(f)` (R214). -/
def frameBytes (f : Frame) : List Byte :=
  addrEnc7 f.dest ++ addrEnc7 f.src ++ f.rpt.flatMap addrEnc7 ++ bodyBytes f.body

/-- `fstr(f)` (R98, R217). -/
def fstr (f : Frame) : List Byte := astr f.src ++ 0x3E :: astr f.dest

/-- The command/response flag of a frame, and the bit of its source address (R24). -/
def frameCr (f : Frame) : Bool := f.dest.ch

def frameSrcCr (f : Frame) : Bool := f.src.ch

/-! ## Validity, equality, well-formed octets -/

/-- The last-address bits of the repeaters: 1 on the last alone (R25). -/
def rptExt : List Address → Bool
  | [] => true
  | [a] => a.ext
  | a :: b :: rest => !a.ext && rptExt (b :: rest)

/-- Positional `ext` (R25). -/
def extPositional (f : Frame) : Bool :=
  !f.dest.ext && (f.src.ext == f.rpt.isEmpty) && rptExt f.rpt

/-- A raw payload has at least one octet (R23); the ranges of the other body fields are in their types. -/
def bodyValid : Body → Bool
  | .raw payload => !payload.isEmpty
  | _ => true

/-- `valid_frame(f)` (R26). -/
def validFrame (p : Params) (f : Frame) : Bool :=
  f.dest.valid && f.src.valid && f.rpt.all Address.valid && decide (f.rpt.length ≤ p.rptMax) &&
    extPositional f && bodyValid f.body &&
    decide (14 + 7 * f.rpt.length + (bodyBytes f.body).length ≤ p.lenMax)

/-- The metadata fit in `TS_W` bits (R22, R240). -/
def metadataFits (p : Params) (f : Frame) : Bool :=
  decide (f.ts < 2 ^ p.tsW) && f.dl.all fun v => decide (v < 2 ^ p.tsW)

/-- `sem_eq(f, g)` (R27): the metadata take no part. -/
def semEq (f g : Frame) : Bool :=
  decide (f.dest = g.dest) && decide (f.src = g.src) && decide (f.rpt = g.rpt) && decide (f.body = g.body)

/-- Bit 0 of every callsign octet of the first `k` address blocks is 0 (R97 (b)). -/
def callBitsClear (b : List Byte) (k : Nat) : Bool :=
  (List.range k).all fun i => (slice b (7 * i) 6).all fun o => !o.getLsbD 0

/-- `WF(b, m)` (R97). -/
def wellFormedOctets (rptMax : Nat) (b : List Byte) (m : Modulus) : Bool :=
  match scanAddresses b with
  | .error _ => false
  | .ok k => (decodeFrame rptMax b m).isOk && callBitsClear b k

end Sys2Proof.Machine
end

