-- ==== Sys2Proof/Syntax.lean ====
section
/-! DEFINITION. The syntax of the block's instructions: one constructor per row of spec/opcode_table.json. The 29
operations carry the operands their rules list (30_encoding.md R100); an operand with a default is an `Option`,
`none` when absent. The 12 control formats, `RAW` and `ADDR7` carry the fields of their formats. -/

namespace Sys2Proof

/-- An Address operand of a request, as given: it may fail to be an Address (R123, "Corner cases"). -/
structure AddrOperand where
  call : List Ch
  ssid : Nat
  ch   : Bool
  rsv  : BitVec 2
  ext  : Bool
  deriving DecidableEq, Repr

/-- The operands every constructor `MK*` takes (43_frame_assembler.md R200). -/
structure MkArgs where
  d     : Nat
  dest  : AddrOperand
  src   : AddrOperand
  rpt   : List AddrOperand
  cr    : Bool
  srcCr : Option Bool
  ts    : Option Nat
  dl    : Option Nat
  deriving DecidableEq, Repr

/-- The instructions. A modulus selector operand is the 2-bit number of R92 (3 is refused by the operation). -/
inductive Instr where
  -- address codec, 40_address_codec.md
  | amk (call : List Ch) (ssid : Nat) (ch : Bool) (rsv : Option (BitVec 2)) (ext : Option Bool)
  | adec (off : Option Nat)
  | aenc (a : AddrOperand)
  | astr (a : AddrOperand)
  -- control-field classifier, 41_control_classifier.md
  | ccls (off : Option Nat) (m : Option (BitVec 2))
  -- frame parser, 42_frame_parser.md
  | fparse (d : Nat)
  | fdecb (d : Nat) (m : Option (BitVec 2))
  | fdecf (d src : Nat) (m : Option (BitVec 2))
  -- frame assembler, 43_frame_assembler.md
  | mkraw (a : MkArgs)
  | mkui (a : MkArgs) (pf : Option Nat) (pid : Nat)
  | mki8 (a : MkArgs) (ns nr : Nat) (pf : Option Nat) (pid : Nat)
  | mki16 (a : MkArgs) (ns nr : Nat) (pf : Option Nat) (pid : Nat)
  | mkrr8 (a : MkArgs) (nr : Nat) (pf : Option Nat)
  | mkrnr8 (a : MkArgs) (nr : Nat) (pf : Option Nat)
  | mkrej8 (a : MkArgs) (nr : Nat) (pf : Option Nat)
  | mksrej8 (a : MkArgs) (nr : Nat) (pf : Option Nat)
  | mkrr16 (a : MkArgs) (nr : Nat) (pf : Option Nat)
  | mkrnr16 (a : MkArgs) (nr : Nat) (pf : Option Nat)
  | mkrej16 (a : MkArgs) (nr : Nat) (pf : Option Nat)
  | mksrej16 (a : MkArgs) (nr : Nat) (pf : Option Nat)
  | fenc (src : Nat)
  | fcpy (d src : Nat)
  | fstr (src : Nat)
  | fget (src : Nat)
  | ffree (d : Nat)
  -- frame metadata, 44_frame_metadata.md
  | getts (src : Nat)
  | setts (src v : Nat)
  | getdl (src : Nat)
  | setdl (src v : Nat)
  -- control formats, 41_control_classifier.md section 2
  | i8 (ns nr : BitVec 3) (pf : Bool)
  | rr8 (nr : BitVec 3) (pf : Bool)
  | rnr8 (nr : BitVec 3) (pf : Bool)
  | rej8 (nr : BitVec 3) (pf : Bool)
  | srej8 (nr : BitVec 3) (pf : Bool)
  | ui (pf : Bool)
  | uother (c0 : Byte)
  | i16 (ns nr : BitVec 7) (pf : Bool)
  | rr16 (nr : BitVec 7) (pf : Bool)
  | rnr16 (nr : BitVec 7) (pf : Bool)
  | rej16 (nr : BitVec 7) (pf : Bool)
  | srej16 (nr : BitVec 7) (pf : Bool)
  -- the fallback of promotion, and the address format
  | raw (m : Modulus) (payload : List Byte)
  | addr7 (octets : List Byte)
  deriving DecidableEq, Repr

end Sys2Proof
end

