-- ==== Sys2Proof/Machine/Operands.lean ====
section
/-! DEFINITION. The operand forms of the requests: slot numbers (60_exceptions.md R265), Addresses (R123), the
modulus selector (R92, R176), bits and small numbers with their ranges (R23, R201 to R212), optional `TS_W`-bit
values (R200, R242, R244). -/

namespace Sys2Proof.Machine

/-- A slot operand `>= NSLOT` is refused (R265). -/
def checkSlot (s : State) (i : Nat) : Except Stop Unit :=
  refuseIf (s.nslot ≤ i) .badSlot

/-- The frame of a source slot: `bad-slot`, then `empty-slot` (R265). -/
def fullSlot (s : State) (i : Nat) : Except Stop Frame :=
  if s.nslot ≤ i then .error (.refuse .badSlot)
  else
    match s.slot i with
    | none => .error (.refuse .emptySlot)
    | some f => .ok f

/-- An Address operand as an Address, else the `MalformedAddress` of `AMK` (R123, R262 cause d). -/
def asAddress (a : AddrOperand) : Except Stop Address :=
  if validCall a.call && decide (a.ssid ≤ 15) then
    .ok { call := a.call, ssid := BitVec.ofNat 4 a.ssid, ch := a.ch, rsv := a.rsv, ext := a.ext }
  else .error (.raise (.malformedAddress (.operand a.call a.ssid)))

/-- A list of Address operands; the first bad one reports (log entry 14). -/
def asAddresses : List AddrOperand → Except Stop (List Address)
  | [] => .ok []
  | a :: as =>
    match asAddress a with
    | .error e => .error e
    | .ok x =>
      match asAddresses as with
      | .error e => .error e
      | .ok xs => .ok (x :: xs)

/-- The modulus selector: `NONE = 0` (also when absent), `M8 = 1`, `M128 = 2`, 3 is refused (R92, R176). -/
def asModulus (m : Option (BitVec 2)) : Except Stop Modulus :=
  match m with
  | none => .ok .nomod
  | some v =>
    if v = 0 then .ok .nomod
    else if v = 1 then .ok .m8
    else if v = 2 then .ok .m128
    else .error (.refuse .badModulus)

/-- A bit operand with default 0, refused above 1 (R202). -/
def asPf (pf : Option Nat) : Except Stop Bool :=
  match pf with
  | none => .ok false
  | some v => if 1 < v then .error (.refuse .fieldRange) else .ok (v == 1)

/-- A number operand that must fit in `n` bits (R202 to R212: 0..7, 0..127, an octet). -/
def asBits (n : Nat) (v : Nat) : Except Stop (BitVec n) :=
  if 2 ^ n ≤ v then .error (.refuse .fieldRange) else .ok (BitVec.ofNat n v)

/-- A `TS_W`-bit operand (R242, R244). -/
def checkTime (s : State) (v : Nat) : Except Stop Unit :=
  refuseIf (2 ^ s.params.tsW ≤ v) .fieldRange

/-- An optional `TS_W`-bit operand (R200; its range is DEDUCED, log entry 13). -/
def checkTimeOpt (s : State) (v : Option Nat) : Except Stop Unit :=
  match v with
  | none => .ok ()
  | some v => checkTime s v

end Sys2Proof.Machine
end

