-- ==== Sys2Proof/Machine/AddressCodec.lean ====
section
/-! DEFINITION. The address codec's operations `AMK`, `ADEC`, `AENC`, `ASTR` (40_address_codec.md R123 to R126),
and the address format `ADDR7` on its own (30_encoding.md R80). None touches a slot (10_state.md R33). -/

namespace Sys2Proof.Machine

/-- `AMK` (R123): `rsv` defaults to `0b11`, `ext` to 0. -/
def execAmk (call : List Ch) (ssid : Nat) (ch : Bool) (rsv : Option (BitVec 2)) (ext : Option Bool) (s : State) :
    Host.Outcome State Fault Refusal :=
  conclude s do
    let a ← asAddress ⟨call, ssid, ch, rsv.getD 0b11, ext.getD false⟩
    .ok (s.answer false 0 (.address a))

/-- `ADEC` (R124): a short input is the address codec's own `MalformedAddress` (90_conflicts.md C2). -/
def execAdec (off : Option Nat) (s : State) : Host.Outcome State Fault Refusal :=
  conclude s do
    raiseIf (s.ilen < off.getD 0 + 7) (.malformedAddress (.short (s.ilen - off.getD 0)))
    let a ← addrDec7 (s.memRead (off.getD 0) 7)
    .ok (s.answer false 0 (.address a))

/-- `AENC` (R125). -/
def execAenc (a : AddrOperand) (s : State) : Host.Outcome State Fault Refusal :=
  conclude s do
    let a ← asAddress a
    s.produce (addrEnc7 a)

/-- `ASTR` (R126). -/
def execAstr (a : AddrOperand) (s : State) : Host.Outcome State Fault Refusal :=
  conclude s do
    let a ← asAddress a
    s.produce (astr a)

/-- `ADDR7` (R80): an address block on its own is decoded as `ADEC` decodes one (R121, R124; DESIGN CHOICE, log
entry 2). -/
def execAddr7 (o : List Byte) (s : State) : Host.Outcome State Fault Refusal :=
  conclude s do
    raiseIf (o.length < 7) (.malformedAddress (.short o.length))
    let a ← addrDec7 (o.take 7)
    .ok (s.answer false 0 (.address a))

end Sys2Proof.Machine
end

