-- ==== Sys2Proof/Machine/ControlClassifier.lean ====
section
/-! DEFINITION. The operation `CCLS` (41_control_classifier.md R141), the twelve control formats on their own
(R143 to R153, R156), and a raw region on its own (42_frame_parser.md R180). A bare field is classified as `CCLS`
classifies it, under the modulus its row names (DESIGN CHOICE, log entry 2); `IBUF` takes no part. -/

namespace Sys2Proof.Machine

/-- The classifier on the octets from a control field on: the class and the claim, with `UCF` set when no format
claims it (R141). -/
def classify (s : State) (m : Modulus) (p : List Byte) : Except Stop State := do
  let dec ← ctlDec p m
  .ok (s.answer (decide (dec = .unrecognised)) 0 (.classified (classOf (octet p 0)) dec))

/-- `CCLS` (R141). -/
def execCcls (off : Option Nat) (m : Option (BitVec 2)) (s : State) : Host.Outcome State Fault Refusal :=
  conclude s do
    let m ← asModulus m
    raiseIf (s.ilen < off.getD 0 + 1) (.insufficientData .controlOctet)
    classify s m (s.memRead (off.getD 0) (s.ilen - off.getD 0))

/-- A typed control field on its own. -/
def classifyField (m : Modulus) (f : ControlField) (s : State) : Host.Outcome State Fault Refusal :=
  conclude s (classify s m (ctlEnc f))

/-- `I8` (R143). -/
def execI8 (ns nr : BitVec 3) (pf : Bool) (s : State) : Host.Outcome State Fault Refusal :=
  classifyField .m8 (.i8 ns nr pf) s

/-- `RR8` (R144). -/
def execRr8 (nr : BitVec 3) (pf : Bool) (s : State) : Host.Outcome State Fault Refusal :=
  classifyField .m8 (.s8 .rr nr pf) s

/-- `RNR8` (R146). -/
def execRnr8 (nr : BitVec 3) (pf : Bool) (s : State) : Host.Outcome State Fault Refusal :=
  classifyField .m8 (.s8 .rnr nr pf) s

/-- `REJ8` (R147). -/
def execRej8 (nr : BitVec 3) (pf : Bool) (s : State) : Host.Outcome State Fault Refusal :=
  classifyField .m8 (.s8 .rej nr pf) s

/-- `SREJ8` (R156). -/
def execSrej8 (nr : BitVec 3) (pf : Bool) (s : State) : Host.Outcome State Fault Refusal :=
  classifyField .m8 (.s8 .srej nr pf) s

/-- `UI` (R152), recognised under every modulus; the row's modulus is the carried one. -/
def execUi (pf : Bool) (s : State) : Host.Outcome State Fault Refusal :=
  classifyField .m8 (.ui pf) s

/-- `UOTHER` (R153): no fields, no encoding; the octet itself is classified. -/
def execUother (c0 : Byte) (s : State) : Host.Outcome State Fault Refusal :=
  conclude s (classify s .m8 [c0])

/-- `I16` (R145). -/
def execI16 (ns nr : BitVec 7) (pf : Bool) (s : State) : Host.Outcome State Fault Refusal :=
  classifyField .m128 (.i16 ns nr pf) s

/-- `RR16` (R148). -/
def execRr16 (nr : BitVec 7) (pf : Bool) (s : State) : Host.Outcome State Fault Refusal :=
  classifyField .m128 (.s16 .rr nr pf) s

/-- `RNR16` (R149). -/
def execRnr16 (nr : BitVec 7) (pf : Bool) (s : State) : Host.Outcome State Fault Refusal :=
  classifyField .m128 (.s16 .rnr nr pf) s

/-- `REJ16` (R150). -/
def execRej16 (nr : BitVec 7) (pf : Bool) (s : State) : Host.Outcome State Fault Refusal :=
  classifyField .m128 (.s16 .rej nr pf) s

/-- `SREJ16` (R151). -/
def execSrej16 (nr : BitVec 7) (pf : Bool) (s : State) : Host.Outcome State Fault Refusal :=
  classifyField .m128 (.s16 .srej nr pf) s

/-- `RAW` (R180): the region after an address field, promoted on its own under `m`; no slot is written, so
`VAR` is 0 (R29). -/
def execRaw (m : Modulus) (p : List Byte) (s : State) : Host.Outcome State Fault Refusal :=
  conclude s do
    let (b, ucf) ← promote p m
    .ok (s.answer ucf 0 (.promoted b))

end Sys2Proof.Machine
end

