-- ==== Sys2Proof/Machine/FrameAssembler.lean ====
section
/-! DEFINITION. The frame assembler: the twelve constructors `MK*` (43_frame_assembler.md R200 to R212) and the
operations on a slot `FENC`, `FCPY`, `FSTR`, `FGET`, `FFREE` (R215 to R219). -/

namespace Sys2Proof.Machine

/-- The `ext` bits of a repeater list: 1 on the last address alone (R200). -/
def placeRptExt : List Address → List Address
  | [] => []
  | [a] => [{ a with ext := true }]
  | a :: b :: rest => { a with ext := false } :: placeRptExt (b :: rest)

/-- The frame of R200: `cr` in `dest.ch`, `src_cr` (default `!cr`) in `src.ch`, positional `ext`, `ts` (default
`TIME()`), `dl`. -/
def assemble (s : State) (a : MkArgs) (dest src : Address) (rpt : List Address) (body : Body) : Frame :=
  { dest := { dest with ch := a.cr, ext := false }
    src := { src with ch := a.srcCr.getD (!a.cr), ext := rpt.isEmpty }
    rpt := placeRptExt rpt
    ts := a.ts.getD s.timeNow
    dl := a.dl
    body := body }

/-- The state after the sample a defaulted `ts` takes. -/
def sampled (s : State) (a : MkArgs) : State :=
  match a.ts with
  | some _ => s
  | none => s.timeTaken

/-- `mk_common` (R200) around a constructor's own checks and body; the order is R267's: bad slot, malformed
address, too many repeaters, the fields, too long. -/
def make (a : MkArgs) (body : Except Stop Body) (s : State) : Host.Outcome State Fault Refusal :=
  conclude s do
    checkSlot s a.d
    let dest ← asAddress a.dest
    let src ← asAddress a.src
    let rpt ← asAddresses a.rpt
    refuseIf (s.params.rptMax < a.rpt.length) .tooManyRepeaters
    checkTimeOpt s a.ts
    checkTimeOpt s a.dl
    let body ← body
    refuseIf (s.params.lenMax < 14 + 7 * a.rpt.length + (bodyBytes body).length) .tooLong
    .ok ((sampled s a).deliver a.d (assemble s a dest src rpt body) false)

/-- `MKRAW` (R201). -/
def execMkraw (a : MkArgs) (s : State) : Host.Outcome State Fault Refusal :=
  make a (do refuseIf (s.ilen < 1) .emptyRawPayload; .ok (.raw s.input)) s

/-- `MKUI` (R202). -/
def execMkui (a : MkArgs) (pf : Option Nat) (pid : Nat) (s : State) : Host.Outcome State Fault Refusal :=
  make a (do let pid ← asBits 8 pid; let pf ← asPf pf; .ok (.ui pf pid s.input)) s

/-- `MKI8` (R203). -/
def execMki8 (a : MkArgs) (ns nr : Nat) (pf : Option Nat) (pid : Nat) (s : State) :
    Host.Outcome State Fault Refusal :=
  make a (do
    let ns ← asBits 3 ns
    let nr ← asBits 3 nr
    let pf ← asPf pf
    let pid ← asBits 8 pid
    .ok (.i8 ns nr pf pid s.input)) s

/-- `MKI16` (R204). -/
def execMki16 (a : MkArgs) (ns nr : Nat) (pf : Option Nat) (pid : Nat) (s : State) :
    Host.Outcome State Fault Refusal :=
  make a (do
    let ns ← asBits 7 ns
    let nr ← asBits 7 nr
    let pf ← asPf pf
    let pid ← asBits 8 pid
    .ok (.i16 ns nr pf pid s.input)) s

/-- A supervisory constructor, modulo-8 (R205). -/
def makeS8 (st : Supervisory) (a : MkArgs) (nr : Nat) (pf : Option Nat) (s : State) :
    Host.Outcome State Fault Refusal :=
  make a (do let nr ← asBits 3 nr; let pf ← asPf pf; .ok (.s8 st nr pf)) s

/-- A supervisory constructor, modulo-128 (R209). -/
def makeS16 (st : Supervisory) (a : MkArgs) (nr : Nat) (pf : Option Nat) (s : State) :
    Host.Outcome State Fault Refusal :=
  make a (do let nr ← asBits 7 nr; let pf ← asPf pf; .ok (.s16 st nr pf)) s

/-- `MKRR8` (R205). -/
def execMkrr8 (a : MkArgs) (nr : Nat) (pf : Option Nat) (s : State) : Host.Outcome State Fault Refusal :=
  makeS8 .rr a nr pf s

/-- `MKRNR8` (R206). -/
def execMkrnr8 (a : MkArgs) (nr : Nat) (pf : Option Nat) (s : State) : Host.Outcome State Fault Refusal :=
  makeS8 .rnr a nr pf s

/-- `MKREJ8` (R207). -/
def execMkrej8 (a : MkArgs) (nr : Nat) (pf : Option Nat) (s : State) : Host.Outcome State Fault Refusal :=
  makeS8 .rej a nr pf s

/-- `MKSREJ8` (R208). -/
def execMksrej8 (a : MkArgs) (nr : Nat) (pf : Option Nat) (s : State) : Host.Outcome State Fault Refusal :=
  makeS8 .srej a nr pf s

/-- `MKRR16` (R209). -/
def execMkrr16 (a : MkArgs) (nr : Nat) (pf : Option Nat) (s : State) : Host.Outcome State Fault Refusal :=
  makeS16 .rr a nr pf s

/-- `MKRNR16` (R210). -/
def execMkrnr16 (a : MkArgs) (nr : Nat) (pf : Option Nat) (s : State) : Host.Outcome State Fault Refusal :=
  makeS16 .rnr a nr pf s

/-- `MKREJ16` (R211). -/
def execMkrej16 (a : MkArgs) (nr : Nat) (pf : Option Nat) (s : State) : Host.Outcome State Fault Refusal :=
  makeS16 .rej a nr pf s

/-- `MKSREJ16` (R212). -/
def execMksrej16 (a : MkArgs) (nr : Nat) (pf : Option Nat) (s : State) : Host.Outcome State Fault Refusal :=
  makeS16 .srej a nr pf s

/-- `FENC` (R215). -/
def execFenc (src : Nat) (s : State) : Host.Outcome State Fault Refusal :=
  conclude s do
    let f ← fullSlot s src
    s.produce (frameBytes f)

/-- `FCPY` (R216): every field, the metadata included. -/
def execFcpy (d src : Nat) (s : State) : Host.Outcome State Fault Refusal :=
  conclude s do
    checkSlot s d
    checkSlot s src
    let f ← fullSlot s src
    .ok (s.deliver d f false)

/-- `FSTR` (R217). -/
def execFstr (src : Nat) (s : State) : Host.Outcome State Fault Refusal :=
  conclude s do
    let f ← fullSlot s src
    s.produce (fstr f)

/-- The variant code of a slot, 0 for `EMPTY` (R218). -/
def slotCode (f : Option Frame) : BitVec 4 :=
  match f with
  | none => 0
  | some f => frameCode f

/-- The record `FGET` returns (R218). -/
def frameRecord (f : Frame) : FrameRecord := ⟨frameCode f, frameCr f, f⟩

/-- `FGET` (R218): `VAR` is the variant code although no slot is written (log entry 11). -/
def execFget (src : Nat) (s : State) : Host.Outcome State Fault Refusal :=
  conclude s do
    checkSlot s src
    .ok (s.answer false (slotCode (s.slot src)) (.frame ((s.slot src).map frameRecord)))

/-- `FFREE` (R219). -/
def execFfree (d : Nat) (s : State) : Host.Outcome State Fault Refusal :=
  conclude s do
    checkSlot s d
    .ok ((s.setSlot d none).answer false 0 .unit)

end Sys2Proof.Machine
end

