-- ==== Sys2Proof/Machine/FrameMetadata.lean ====
section
/-! DEFINITION. The metadata operations `GETTS`, `SETTS`, `GETDL`, `SETDL` (44_frame_metadata.md R241 to R244).
The deadline is write-once: the test and the write of `SETDL` are one step (20_memory.md R60). -/

namespace Sys2Proof.Machine

/-- `GETTS` (R241). -/
def execGetts (src : Nat) (s : State) : Host.Outcome State Fault Refusal :=
  conclude s do
    let f ← fullSlot s src
    .ok (s.answer false 0 (.timestamp f.ts))

/-- `SETTS` (R242). -/
def execSetts (src v : Nat) (s : State) : Host.Outcome State Fault Refusal :=
  conclude s do
    let f ← fullSlot s src
    checkTime s v
    .ok ((s.setSlot src (some { f with ts := v })).answer false 0 .unit)

/-- `GETDL` (R243). -/
def execGetdl (src : Nat) (s : State) : Host.Outcome State Fault Refusal :=
  conclude s do
    let f ← fullSlot s src
    .ok (s.answer false 0 (.deadline f.dl))

/-- `SETDL` (R244). -/
def execSetdl (src v : Nat) (s : State) : Host.Outcome State Fault Refusal :=
  conclude s do
    let f ← fullSlot s src
    checkTime s v
    raiseIf (f.dl ≠ none) .deadlineImmutable
    .ok ((s.setSlot src (some { f with dl := some v })).answer false 0 .unit)

end Sys2Proof.Machine
end

