-- ==== Sys2Proof/Machine/FrameParser.lean ====
section
/-! DEFINITION. The frame parser's operations `FPARSE`, `FDECB`, `FDECF` (42_frame_parser.md R172, R181, R182). The
order of the checks is the order of the pseudocode (60_exceptions.md R267). -/

namespace Sys2Proof.Machine

/-- `FPARSE` (R172). -/
def execFparse (d : Nat) (s : State) : Host.Outcome State Fault Refusal :=
  conclude s do
    checkSlot s d
    let r ← parseRaw s.params.rptMax s.input
    .ok (s.timeTaken.deliver d (r.frame (.raw r.payload) s.timeNow) false)

/-- `FDECB` (R181). -/
def execFdecb (d : Nat) (m : Option (BitVec 2)) (s : State) : Host.Outcome State Fault Refusal :=
  conclude s do
    checkSlot s d
    let m ← asModulus m
    let (r, body, ucf) ← decodeFrame s.params.rptMax s.input m
    .ok (s.timeTaken.deliver d (r.frame body s.timeNow) ucf)

/-- `FDECF` (R182): the metadata of the source frame are carried (R183). -/
def execFdecf (d src : Nat) (m : Option (BitVec 2)) (s : State) : Host.Outcome State Fault Refusal :=
  conclude s do
    checkSlot s d
    checkSlot s src
    let m ← asModulus m
    let f ← fullSlot s src
    let (body, ucf) ← promoteBody f.body m
    .ok (s.deliver d { f with body := body } ucf)

end Sys2Proof.Machine
end

