-- ==== Sys2Proof/Machine/Dispatch.lean ====
section
/-! DEFINITION. One arm per constructor of `Instr`: the meaning it has. -/

namespace Sys2Proof.Machine

def exec (i : Instr) (s : State) : Host.Outcome State Fault Refusal :=
  match i with
  | .amk call ssid ch rsv ext => Sys2Proof.Machine.execAmk call ssid ch rsv ext s
  | .adec off => Sys2Proof.Machine.execAdec off s
  | .aenc a => Sys2Proof.Machine.execAenc a s
  | .astr a => Sys2Proof.Machine.execAstr a s
  | .ccls off m => Sys2Proof.Machine.execCcls off m s
  | .fparse d => Sys2Proof.Machine.execFparse d s
  | .fdecb d m => Sys2Proof.Machine.execFdecb d m s
  | .fdecf d src m => Sys2Proof.Machine.execFdecf d src m s
  | .mkraw a => Sys2Proof.Machine.execMkraw a s
  | .mkui a pf pid => Sys2Proof.Machine.execMkui a pf pid s
  | .mki8 a ns nr pf pid => Sys2Proof.Machine.execMki8 a ns nr pf pid s
  | .mki16 a ns nr pf pid => Sys2Proof.Machine.execMki16 a ns nr pf pid s
  | .mkrr8 a nr pf => Sys2Proof.Machine.execMkrr8 a nr pf s
  | .mkrnr8 a nr pf => Sys2Proof.Machine.execMkrnr8 a nr pf s
  | .mkrej8 a nr pf => Sys2Proof.Machine.execMkrej8 a nr pf s
  | .mksrej8 a nr pf => Sys2Proof.Machine.execMksrej8 a nr pf s
  | .mkrr16 a nr pf => Sys2Proof.Machine.execMkrr16 a nr pf s
  | .mkrnr16 a nr pf => Sys2Proof.Machine.execMkrnr16 a nr pf s
  | .mkrej16 a nr pf => Sys2Proof.Machine.execMkrej16 a nr pf s
  | .mksrej16 a nr pf => Sys2Proof.Machine.execMksrej16 a nr pf s
  | .fenc src => Sys2Proof.Machine.execFenc src s
  | .fcpy d src => Sys2Proof.Machine.execFcpy d src s
  | .fstr src => Sys2Proof.Machine.execFstr src s
  | .fget src => Sys2Proof.Machine.execFget src s
  | .ffree d => Sys2Proof.Machine.execFfree d s
  | .getts src => Sys2Proof.Machine.execGetts src s
  | .setts src v => Sys2Proof.Machine.execSetts src v s
  | .getdl src => Sys2Proof.Machine.execGetdl src s
  | .setdl src v => Sys2Proof.Machine.execSetdl src v s
  | .i8 ns nr pf => Sys2Proof.Machine.execI8 ns nr pf s
  | .rr8 nr pf => Sys2Proof.Machine.execRr8 nr pf s
  | .rnr8 nr pf => Sys2Proof.Machine.execRnr8 nr pf s
  | .rej8 nr pf => Sys2Proof.Machine.execRej8 nr pf s
  | .srej8 nr pf => Sys2Proof.Machine.execSrej8 nr pf s
  | .ui pf => Sys2Proof.Machine.execUi pf s
  | .uother c0 => Sys2Proof.Machine.execUother c0 s
  | .i16 ns nr pf => Sys2Proof.Machine.execI16 ns nr pf s
  | .rr16 nr pf => Sys2Proof.Machine.execRr16 nr pf s
  | .rnr16 nr pf => Sys2Proof.Machine.execRnr16 nr pf s
  | .rej16 nr pf => Sys2Proof.Machine.execRej16 nr pf s
  | .srej16 nr pf => Sys2Proof.Machine.execSrej16 nr pf s
  | .raw m p => Sys2Proof.Machine.execRaw m p s
  | .addr7 o => Sys2Proof.Machine.execAddr7 o s

end Sys2Proof.Machine
end

