-- ==== Sys2Proof/WellFormed.lean ====
section
/-! DEFINITION. Which instructions an encoding exists for. Every operation is well-formed with any operands: an
operand outside its range is part of the request, and the operation answers it with a fault or a refusal (R123,
60_exceptions.md R265). The formats' constructors carry octets where the format fixes some of their bits, and
those bits are checked here. -/

namespace Sys2Proof

/-- `UOTHER` (R153): class U and not `UI`. -/
def uotherOctet (c0 : Byte) : Bool := c0 &&& 0x03 == 0x03 && !(c0 &&& 0xEF == 0x03)

/-- `RAW` (R180; the condition of its opcode-table row, less the octets the row `UOTHER` takes): the control field
`p` is claimed by no format under `m`, or is supervisory and followed by further octets. -/
def rawRegion (m : Modulus) (p : List Byte) : Bool :=
  match p with
  | [] => false
  | c0 :: t =>
    if c0 &&& 0x03 == 0x03 then false
    else
      match m with
      | .nomod => true
      | .m8 => c0 &&& 0x03 == 0x01 && !t.isEmpty
      | .m128 => c0 &&& 0x03 == 0x01 && (!(c0 &&& 0xF0 == 0x00) || decide (2 ≤ t.length))

/-- The instruction can be carried (it has an encoding the decoder reads back). -/
def WellFormed (i : Instr) : Bool :=
  match i with
  | .uother c0 => uotherOctet c0
  | .raw m p => rawRegion m p
  | .addr7 o => o.length == 7
  | .amk .. | .adec .. | .aenc .. | .astr .. | .ccls .. | .fparse .. | .fdecb .. | .fdecf ..
  | .mkraw .. | .mkui .. | .mki8 .. | .mki16 .. | .mkrr8 .. | .mkrnr8 .. | .mkrej8 .. | .mksrej8 ..
  | .mkrr16 .. | .mkrnr16 .. | .mkrej16 .. | .mksrej16 ..
  | .fenc .. | .fcpy .. | .fstr .. | .fget .. | .ffree .. | .getts .. | .setts .. | .getdl .. | .setdl ..
  | .i8 .. | .rr8 .. | .rnr8 .. | .rej8 .. | .srej8 .. | .ui ..
  | .i16 .. | .rr16 .. | .rnr16 .. | .rej16 .. | .srej16 .. => true

end Sys2Proof
end

