-- ==== Sys2Proof/Decode.lean ====
section
/-! DEFINITION. The decoder, from a carried input to an instruction or a named rejection, and the encoder after
it. The control formats and the address format are the spec's (30_encoding.md R80 to R93); the command codes are
R100's. The octets of a request's operands are the model's own (DESIGN CHOICE, log entry 1), because R100 says
that how a request is carried is not specified. -/

namespace Sys2Proof

/-! ## Operand octets: readers -/

/-- A natural number: 7 bits an octet, low-order group first, bit 7 set on every octet but the last. -/
def getNat : List Byte → Option (Nat × List Byte)
  | [] => none
  | b :: bs =>
    if b.toNat < 128 then some (b.toNat, bs)
    else (getNat bs).map fun p => (b.toNat - 128 + 128 * p.1, p.2)

/-- One bit: an octet 0 or 1. -/
def getBit : List Byte → Option (Bool × List Byte)
  | [] => none
  | b :: bs => if b = 0 then some (false, bs) else if b = 1 then some (true, bs) else none

/-- A 2-bit value: an octet 0 to 3. -/
def getTwo : List Byte → Option (BitVec 2 × List Byte)
  | [] => none
  | b :: bs => if b.toNat < 4 then some (b.setWidth 2, bs) else none

/-- A character: an octet 0 to 127. -/
def getCh : List Byte → Option (Ch × List Byte)
  | [] => none
  | b :: bs => if b.toNat < 128 then some (b.setWidth 7, bs) else none

/-- An operand with a default: an octet 0 when it is absent, 1 and then the operand when it is present. -/
def getOption {α : Type} (g : List Byte → Option (α × List Byte)) :
    List Byte → Option (Option α × List Byte)
  | [] => none
  | b :: bs =>
    if b = 0 then some (none, bs)
    else if b = 1 then (g bs).map fun p => (some p.1, p.2)
    else none

/-- `n` operands of one kind, one after another. -/
def getMany {α : Type} (g : List Byte → Option (α × List Byte)) :
    Nat → List Byte → Option (List α × List Byte)
  | 0, bs => some ([], bs)
  | n + 1, bs => do
    let (x, bs) ← g bs
    let (xs, bs) ← getMany g n bs
    some (x :: xs, bs)

/-- A list: its length, then its elements. -/
def getList {α : Type} (g : List Byte → Option (α × List Byte)) (bs : List Byte) :
    Option (List α × List Byte) := do
  let (n, bs) ← getNat bs
  getMany g n bs

/-- An Address operand: `call`, `ssid`, `ch`, `rsv`, `ext`. -/
def getAddr (bs : List Byte) : Option (AddrOperand × List Byte) := do
  let (call, bs) ← getList getCh bs
  let (ssid, bs) ← getNat bs
  let (ch, bs) ← getBit bs
  let (rsv, bs) ← getTwo bs
  let (ext, bs) ← getBit bs
  some (⟨call, ssid, ch, rsv, ext⟩, bs)

/-- The operands of R200. -/
def getMk (bs : List Byte) : Option (MkArgs × List Byte) := do
  let (d, bs) ← getNat bs
  let (dest, bs) ← getAddr bs
  let (src, bs) ← getAddr bs
  let (rpt, bs) ← getList getAddr bs
  let (cr, bs) ← getBit bs
  let (srcCr, bs) ← getOption getBit bs
  let (ts, bs) ← getOption getNat bs
  let (dl, bs) ← getOption getNat bs
  some (⟨d, dest, src, rpt, cr, srcCr, ts, dl⟩, bs)

/-! ## Operations: the command codes of R100, each with the reader of its operands -/

def readAmk (bs : List Byte) : Option Instr := do
  let (call, bs) ← getList getCh bs
  let (ssid, bs) ← getNat bs
  let (ch, bs) ← getBit bs
  let (rsv, bs) ← getOption getTwo bs
  let (ext, _) ← getOption getBit bs
  some (.amk call ssid ch rsv ext)

/-- One slot number or offset. -/
def readNat (mk : Nat → Instr) (bs : List Byte) : Option Instr :=
  (getNat bs).map fun p => mk p.1

def readNatNat (mk : Nat → Nat → Instr) (bs : List Byte) : Option Instr := do
  let (a, bs) ← getNat bs
  let (b, _) ← getNat bs
  some (mk a b)

def readAddr (mk : AddrOperand → Instr) (bs : List Byte) : Option Instr :=
  (getAddr bs).map fun p => mk p.1

def readAdec (bs : List Byte) : Option Instr :=
  (getOption getNat bs).map fun p => .adec p.1

def readCcls (bs : List Byte) : Option Instr := do
  let (off, bs) ← getOption getNat bs
  let (m, _) ← getOption getTwo bs
  some (.ccls off m)

def readFdecb (bs : List Byte) : Option Instr := do
  let (d, bs) ← getNat bs
  let (m, _) ← getOption getTwo bs
  some (.fdecb d m)

def readFdecf (bs : List Byte) : Option Instr := do
  let (d, bs) ← getNat bs
  let (src, bs) ← getNat bs
  let (m, _) ← getOption getTwo bs
  some (.fdecf d src m)

def readMkraw (bs : List Byte) : Option Instr :=
  (getMk bs).map fun p => .mkraw p.1

def readMkui (bs : List Byte) : Option Instr := do
  let (a, bs) ← getMk bs
  let (pf, bs) ← getOption getNat bs
  let (pid, _) ← getNat bs
  some (.mkui a pf pid)

/-- The information constructors (R203, R204). -/
def readMkI (mk : MkArgs → Nat → Nat → Option Nat → Nat → Instr) (bs : List Byte) : Option Instr := do
  let (a, bs) ← getMk bs
  let (ns, bs) ← getNat bs
  let (nr, bs) ← getNat bs
  let (pf, bs) ← getOption getNat bs
  let (pid, _) ← getNat bs
  some (mk a ns nr pf pid)

/-- The supervisory constructors (R205 to R212). -/
def readMkS (mk : MkArgs → Nat → Option Nat → Instr) (bs : List Byte) : Option Instr := do
  let (a, bs) ← getMk bs
  let (nr, bs) ← getNat bs
  let (pf, _) ← getOption getNat bs
  some (mk a nr pf)

/-- The table of R100. -/
def opRows : List (Byte × (List Byte → Option Instr)) :=
  [ (0x01, readAmk), (0x02, readAdec), (0x03, readAddr .aenc), (0x04, readAddr .astr), (0x10, readCcls),
    (0x20, readNat .fparse), (0x21, readFdecb), (0x22, readFdecf) ] ++
  [ (0x30, readMkraw), (0x31, readMkui), (0x32, readMkI .mki8), (0x33, readMkI .mki16),
    (0x34, readMkS .mkrr8), (0x35, readMkS .mkrnr8), (0x36, readMkS .mkrej8), (0x37, readMkS .mksrej8),
    (0x38, readMkS .mkrr16), (0x39, readMkS .mkrnr16), (0x3A, readMkS .mkrej16), (0x3B, readMkS .mksrej16) ] ++
  [ (0x40, readNat .fenc), (0x41, readNatNat .fcpy), (0x42, readNat .fstr), (0x43, readNat .fget),
    (0x44, readNat .ffree), (0x50, readNat .getts), (0x51, readNatNat .setts), (0x52, readNat .getdl),
    (0x53, readNatNat .setdl) ]

/-- The reader of a command code's operands, `none` for a code R100 does not assign. -/
def opReader (code : Byte) : Option (List Byte → Option Instr) :=
  (opRows.find? fun r => r.1 == code).map Prod.snd

/-- A request: the command code, then the operands; octets after the last operand are not looked at. -/
def decodeRequest : List Byte → Except DecodeError Instr
  | [] => .error .noOctets
  | code :: bs =>
    match opReader code with
    | none => .error (.unknownOp code)
    | some read =>
      match read bs with
      | none => .error (.badOperands code)
      | some i => .ok i

/-! ## Control fields: the rows of R88, R90, R91 and R93 as mask, pattern and fields -/

/-- The fields `nr` = bits 7:5 and `pf` = bit 4 of a supervisory octet (R88). -/
def readS8 (mk : BitVec 3 → Bool → Instr) (c : Byte) : Instr := mk (c.extractLsb' 5 3) (c.getLsbD 4)

/-- The fields `nr` = bits 15:9 and `pf` = bit 8 of `ctl16` (R90). -/
def readS16 (mk : BitVec 7 → Bool → Instr) (c : BitVec 16) : Instr := mk (c.extractLsb' 9 7) (c.getLsbD 8)

/-- The rows of the one-octet unnumbered formats, `UI` first (R93). -/
def ctlURows : List (Byte × Byte × (Byte → Instr)) :=
  [ (0xEF, 0x03, fun c => .ui (c.getLsbD 4)),
    (0x03, 0x03, fun c => .uother c) ]

/-- The rows recognised under `M8` (R88). -/
def ctl8Rows : List (Byte × Byte × (Byte → Instr)) :=
  [ (0x01, 0x00, fun c => .i8 (c.extractLsb' 1 3) (c.extractLsb' 5 3) (c.getLsbD 4)),
    (0x0F, 0x01, readS8 .rr8),
    (0x0F, 0x05, readS8 .rnr8),
    (0x0F, 0x09, readS8 .rej8),
    (0x0F, 0x0D, readS8 .srej8) ]

/-- The rows recognised under `M128`, on `ctl16 = c0 | (c1 << 8)` (R90). -/
def ctl16Rows : List (BitVec 16 × BitVec 16 × (BitVec 16 → Instr)) :=
  [ (0x0001, 0x0000, fun c => .i16 (c.extractLsb' 1 7) (c.extractLsb' 9 7) (c.getLsbD 8)),
    (0x00FF, 0x0001, readS16 .rr16),
    (0x00FF, 0x0005, readS16 .rnr16),
    (0x00FF, 0x0009, readS16 .rej16),
    (0x00FF, 0x000D, readS16 .srej16) ]

/-- The instruction of the first row whose pattern the octet or `ctl16` matches. -/
def readRow {n : Nat} (rows : List (BitVec n × BitVec n × (BitVec n → Instr))) (c : BitVec n) : Option Instr :=
  (rows.find? fun r => c &&& r.1 == r.2.1).map fun r => r.2.2 c

/-- A control field on its own under `m`: the row that claims it, `RAW` where none does (R180). Octets after a
claimed information or unnumbered control field are no part of it. -/
def decodeControl (m : Modulus) (p : List Byte) : Except DecodeError Instr :=
  match p with
  | [] => .error .noControl
  | c0 :: t =>
    match readRow ctlURows c0 with
    | some i => .ok i
    | none =>
      if rawRegion m p then .ok (.raw m p)
      else
        match m with
        | .nomod => .ok (.raw m p)
        | .m8 => .ok ((readRow ctl8Rows c0).getD (.raw m p))
        | .m128 =>
          match t with
          | [] => .error .shortControl
          | c1 :: _ => .ok ((readRow ctl16Rows (c1 ++ c0)).getD (.raw m p))

/-! ## The decoder -/

/-- One carried input. Total on any octets; what is no instruction is rejected by name. -/
def decode : Item → Except DecodeError Instr
  | .request bs => decodeRequest bs
  | .control m p => decodeControl m p
  | .address o => if o.length < 7 then .error (.shortAddress o.length) else .ok (.addr7 (o.take 7))

/-- How a word of spec/opcode_table.json is carried (DESIGN CHOICE, log entry 3): 8 bits that are a command code of
R100 are a request, with operand octets of zero after it; any other 8 bits are a control octet under `M8`; 16 bits
are a two-octet control field under `M128`, its first octet in the low-order half (20_memory.md R52); 56 bits are
an address, its first octet lowest; no bits are a raw region under `NONE` that begins with a zero octet; no other width stands in the table. -/
def tableItem (nbits w : Nat) : Item :=
  if nbits = 8 then
    if (opReader (BitVec.ofNat 8 w)).isSome then .request (BitVec.ofNat 8 w :: List.replicate 32 0)
    else .control .m8 [BitVec.ofNat 8 w]
  else if nbits = 16 then .control .m128 [BitVec.ofNat 8 w, BitVec.ofNat 8 (w / 256)]
  else if nbits = 56 then .address ((List.range 7).map fun k => BitVec.ofNat 8 (w / 256 ^ k))
  else if nbits = 0 then .control .nomod [BitVec.ofNat 8 w]
  else .request []

/-- The instruction the decoder reads from a word of the opcode table. -/
def decodeTableWord (nbits w : Nat) : Option Instr :=
  match decode (tableItem nbits w) with
  | .ok i => some i
  | .error _ => none

/-! ## The encoder -/

/-- The inverse of `getNat`, on as many groups of 7 bits as the number has; the first argument bounds the
recursion and is never used up. -/
def putNatUpTo : Nat → Nat → List Byte
  | 0, n => [BitVec.ofNat 8 n]
  | k + 1, n => if n < 128 then [BitVec.ofNat 8 n] else BitVec.ofNat 8 (n % 128 + 128) :: putNatUpTo k (n / 128)

def putNat (n : Nat) : List Byte := putNatUpTo n n

def putBit (b : Bool) : List Byte := [if b then 1 else 0]

def putTwo (v : BitVec 2) : List Byte := [v.setWidth 8]

def putCh (c : Ch) : List Byte := [c.setWidth 8]

def putOption {α : Type} (f : α → List Byte) : Option α → List Byte
  | none => [0]
  | some x => 1 :: f x

def putList {α : Type} (f : α → List Byte) (xs : List α) : List Byte := putNat xs.length ++ xs.flatMap f

def putAddr (a : AddrOperand) : List Byte :=
  putList putCh a.call ++ putNat a.ssid ++ putBit a.ch ++ putTwo a.rsv ++ putBit a.ext

def putMk (a : MkArgs) : List Byte :=
  putNat a.d ++ putAddr a.dest ++ putAddr a.src ++ putList putAddr a.rpt ++ putBit a.cr ++
    putOption putBit a.srcCr ++ putOption putNat a.ts ++ putOption putNat a.dl

/-- A request's octets. -/
def request (code : Byte) (operands : List Byte) : Item := .request (code :: operands)

def putMkI (a : MkArgs) (ns nr : Nat) (pf : Option Nat) (pid : Nat) : List Byte :=
  putMk a ++ putNat ns ++ putNat nr ++ putOption putNat pf ++ putNat pid

def putMkS (a : MkArgs) (nr : Nat) (pf : Option Nat) : List Byte :=
  putMk a ++ putNat nr ++ putOption putNat pf

/-- A supervisory octet: `nr`, `pf`, `st`, 01 (R88). -/
def octetS8 (st : BitVec 2) (nr : BitVec 3) (pf : Bool) : Item :=
  .control .m8 [nr ++ BitVec.ofBool pf ++ st ++ 0b01#2]

/-- A supervisory field of two octets: 0000, `st`, 01, then `nr`, `pf` (R90). -/
def octetsS16 (st : BitVec 2) (nr : BitVec 7) (pf : Bool) : Item :=
  .control .m128 [0b0000#4 ++ st ++ 0b01#2, nr ++ BitVec.ofBool pf]

/-- The carried form of an instruction, from the tables of R80, R88, R90, R93 and R100. -/
def encode : Instr → Item
  | .amk call ssid ch rsv ext =>
    request 0x01 (putList putCh call ++ putNat ssid ++ putBit ch ++ putOption putTwo rsv ++ putOption putBit ext)
  | .adec off => request 0x02 (putOption putNat off)
  | .aenc a => request 0x03 (putAddr a)
  | .astr a => request 0x04 (putAddr a)
  | .ccls off m => request 0x10 (putOption putNat off ++ putOption putTwo m)
  | .fparse d => request 0x20 (putNat d)
  | .fdecb d m => request 0x21 (putNat d ++ putOption putTwo m)
  | .fdecf d src m => request 0x22 (putNat d ++ putNat src ++ putOption putTwo m)
  | .mkraw a => request 0x30 (putMk a)
  | .mkui a pf pid => request 0x31 (putMk a ++ putOption putNat pf ++ putNat pid)
  | .mki8 a ns nr pf pid => request 0x32 (putMkI a ns nr pf pid)
  | .mki16 a ns nr pf pid => request 0x33 (putMkI a ns nr pf pid)
  | .mkrr8 a nr pf => request 0x34 (putMkS a nr pf)
  | .mkrnr8 a nr pf => request 0x35 (putMkS a nr pf)
  | .mkrej8 a nr pf => request 0x36 (putMkS a nr pf)
  | .mksrej8 a nr pf => request 0x37 (putMkS a nr pf)
  | .mkrr16 a nr pf => request 0x38 (putMkS a nr pf)
  | .mkrnr16 a nr pf => request 0x39 (putMkS a nr pf)
  | .mkrej16 a nr pf => request 0x3A (putMkS a nr pf)
  | .mksrej16 a nr pf => request 0x3B (putMkS a nr pf)
  | .fenc src => request 0x40 (putNat src)
  | .fcpy d src => request 0x41 (putNat d ++ putNat src)
  | .fstr src => request 0x42 (putNat src)
  | .fget src => request 0x43 (putNat src)
  | .ffree d => request 0x44 (putNat d)
  | .getts src => request 0x50 (putNat src)
  | .setts src v => request 0x51 (putNat src ++ putNat v)
  | .getdl src => request 0x52 (putNat src)
  | .setdl src v => request 0x53 (putNat src ++ putNat v)
  | .i8 ns nr pf => .control .m8 [nr ++ BitVec.ofBool pf ++ ns ++ 0b0#1]
  | .rr8 nr pf => octetS8 0b00 nr pf
  | .rnr8 nr pf => octetS8 0b01 nr pf
  | .rej8 nr pf => octetS8 0b10 nr pf
  | .srej8 nr pf => octetS8 0b11 nr pf
  | .ui pf => .control .m8 [0b000#3 ++ BitVec.ofBool pf ++ 0b0011#4]
  | .uother c0 => .control .m8 [c0]
  | .i16 ns nr pf => .control .m128 [ns ++ 0b0#1, nr ++ BitVec.ofBool pf]
  | .rr16 nr pf => octetsS16 0b00 nr pf
  | .rnr16 nr pf => octetsS16 0b01 nr pf
  | .rej16 nr pf => octetsS16 0b10 nr pf
  | .srej16 nr pf => octetsS16 0b11 nr pf
  | .raw m p => .control m p
  | .addr7 o => .address o

/-- The command code of an operation (R100); the formats have none. -/
def commandCode (i : Instr) : Option Byte :=
  match encode i with
  | .request (c :: _) => some c
  | _ => none

/-! ## Pseudo-operations (R101) -/

/-- `FDEC Fd` is `FDECB Fd, m=NONE`. -/
def fdec (d : Nat) : Instr := .fdecb d (some 0)

/-- `MKS8 Fd, st=X, …` is the constructor of code `0x34 + X`. -/
def mks8 (st : Supervisory) (a : MkArgs) (nr : Nat) (pf : Option Nat) : Instr :=
  match st with
  | .rr => .mkrr8 a nr pf
  | .rnr => .mkrnr8 a nr pf
  | .rej => .mkrej8 a nr pf
  | .srej => .mksrej8 a nr pf

/-- `MKS16 Fd, st=X, …` is the constructor of code `0x38 + X`. -/
def mks16 (st : Supervisory) (a : MkArgs) (nr : Nat) (pf : Option Nat) : Instr :=
  match st with
  | .rr => .mkrr16 a nr pf
  | .rnr => .mkrnr16 a nr pf
  | .rej => .mkrej16 a nr pf
  | .srej => .mksrej16 a nr pf

/-- The short Address literal `"CALL-n"`, with `*` when `repeated` (R101): `addr(CALL, n, ch, 3, 0)`. -/
def shortAddr (call : List Ch) (ssid : Nat) (repeated : Bool) : AddrOperand :=
  ⟨call, ssid, repeated, 0b11, false⟩

end Sys2Proof
end

