-- ==== Sys2Proof/Machine/HostPort.lean ====
section
/-! DEFINITION. The host's side of the block (00_scope.md R4, R13): its acts are taken one at a time from `inbox`,
between operations and never during one, and an input that decodes to no instruction is answered here. -/

namespace Sys2Proof.Machine

/-- The next act of the host, and the state without it. -/
def takeEvent (s : State) : Option (HostEvent × State) :=
  match s.inbox with
  | [] => none
  | ev :: rest => some (ev, { s with inbox := rest })

/-- The host puts one more act before all others. -/
def offerEvent (s : State) (ev : HostEvent) : State := { s with inbox := ev :: s.inbox }

/-- Octets written to `IBUF`, all inside it (R13, R50). -/
def hostWriteIbuf (off : Nat) (octets : List Byte) (s : State) : Host.Outcome State Fault Refusal :=
  if s.params.lenMax < off + octets.length then .fault .ibufOutOfRange
  else .next { s with ibuf := Memory.store s.ibuf off octets }

/-- `ILEN` written, `0 .. LEN_MAX` (R13, R30). -/
def hostSetIlen (n : Nat) (s : State) : Host.Outcome State Fault Refusal :=
  if s.params.lenMax < n then .fault .ilenAboveLenMax else .next { s with ilen := n }

/-- A level on `TIME` the host holds, `TS_W` bits wide, or `none`: an outside clock drives it (R13, R32). -/
def hostDriveTime (v : Option Nat) (s : State) : Host.Outcome State Fault Refusal :=
  match v with
  | none => .next { s with time := none }
  | some v => if 2 ^ s.params.tsW ≤ v then .fault .timeTooWide else .next { s with time := some v }

/-- The reset of R290: every piece of the block's state as R34 says. The parameters, the `TIME` input and the
host's pending acts are not the block's to reset (log entry 17). -/
def hostReset (s : State) : Host.Outcome State Fault Refusal :=
  .next { State.resetWith s.params s.nslot with time := s.time, timeDraws := s.timeDraws, inbox := s.inbox }

/-- How the block ends an input that decodes to no instruction. An unassigned command code is `unknown-op` (R100), and
so is a request with no code at all; a request without the operands its code takes has no meaning and is refused
(R5, R265, 92_eei_decisions.md D33; the reason is DESIGN CHOICE, log entry 1). A short control field is the
classifier's `InsufficientData` (R142, R261 causes e and g), a short address the address codec's `MalformedAddress`
(R124, R262 cause b). -/
def undecodableStop (e : DecodeError) : Stop :=
  match e with
  | .unknownOp _ => .refuse .unknownOp
  | .noOctets => .refuse .unknownOp
  | .badOperands _ => .refuse .fieldRange
  | .noControl => .raise (.insufficientData .controlOctet)
  | .shortControl => .raise (.insufficientData .secondControlOctet)
  | .shortAddress remain => .raise (.malformedAddress (.short remain))

/-- An input that decodes to no instruction is answered like any other: a next state with `STATUS` and the response
written (R266). -/
def answerUndecodable (e : DecodeError) (s : State) : Host.Outcome State Fault Refusal :=
  .next (s.stop (undecodableStop e))

end Sys2Proof.Machine
end

