-- ==== Sys2Proof/Machine/Step.lean ====
section
/-! DEFINITION. One step of the machine: the host's next act, taken whole. With no act pending the block waits
(70_reset_and_hazards.md R291) and nothing changes. The block fetches no program (10_state.md R28): what runs next
is what the host sends next. -/

namespace Sys2Proof.Machine

def step (s : State) : Host.Outcome State Fault Refusal :=
  match takeEvent s with
  | none => .next s
  | some (.item it, t) =>
    match decode it with
    | .ok i => exec i t
    | .error e => answerUndecodable e t
  | some (.writeIbuf off octets, t) => hostWriteIbuf off octets t
  | some (.setIlen n, t) => hostSetIlen n t
  | some (.driveTime v, t) => hostDriveTime v t
  | some (.reset, t) => hostReset t

/-- `s` with the input a table word stands for as the host's next act, before the acts already pending; nothing
else changes (log entries 3 and 4). -/
def State.withFetchWord (s : State) (nbits w : Nat) : State := offerEvent s (.item (tableItem nbits w))

end Sys2Proof.Machine
end

