-- ==== Sys2Proof/Safety.lean ====
section
/-! DEFINITION. What a good state of the block is (the invariant every step keeps), and which slot an instruction
writes: the terms the statements about the whole machine use. -/

namespace Sys2Proof.Machine

/-- A slot holds `EMPTY` or a structurally valid frame whose metadata fit (R20, R26, R240). -/
def slotValid (p : Params) : Option Frame → Bool
  | none => true
  | some f => validFrame p f && metadataFits p f

/-- The values `STATUS` takes (R29): after `ok`, `ERR = 0` and `VAR` at most 12, with `UCF = 1` only beside `VAR` 1
(a raw frame) or 0 (no slot written, R264); after a fault or a refusal, a code 1, 2, 3 or 7 with `UCF = 0` and
`VAR = 0`. -/
def statusLegal (w : BitVec 8) : Bool :=
  (statusErr w == 0 && decide ((statusVar w).toNat ≤ (if statusUcf w then 1 else 12))) ||
    ((statusErr w == 1 || statusErr w == 2 || statusErr w == 3 || statusErr w == 7) &&
      !statusUcf w && statusVar w == 0)

/-- The constraints of R8 on the open parameters. -/
def paramsLegal (s : State) : Bool :=
  decide (2 ≤ s.nslot) && decide (15 ≤ s.params.lenMax) && decide (1 ≤ s.params.tsW)

/-- The invariant of the block's state. -/
structure State.Inv (s : State) : Prop where
  params : paramsLegal s = true
  slots : ∀ v ∈ s.slots, slotValid s.params v = true
  status : statusLegal s.status = true
  ilen : s.ilen ≤ s.params.lenMax
  olen : s.olen ≤ s.params.lenMax
  /-- `IBUF` is in canonical form and inside its `LEN_MAX` octets. -/
  ibufWf : Memory.wf s.ibuf = true
  ibufInside : ∀ c ∈ s.ibuf, c.1 < s.params.lenMax
  /-- `OBUF` is in canonical form and holds a value at exactly the offsets below `OLEN` (R56; that nothing stands
  beyond is the model's form, log entry 10). -/
  obufWf : Memory.wf s.obuf = true
  obufExact : ∀ a, (Memory.get s.obuf a).isSome = decide (a < s.olen)

/-- The slot whose whole content the instruction replaces when it ends `ok` (R35 (a) and (d)). -/
def replacedSlot : Instr → Option Nat
  | .fparse d | .fdecb d _ | .fdecf d _ _ | .fcpy d _ | .ffree d => some d
  | .mkraw a | .mkui a _ _ | .mki8 a _ _ _ _ | .mki16 a _ _ _ _
  | .mkrr8 a _ _ | .mkrnr8 a _ _ | .mkrej8 a _ _ | .mksrej8 a _ _
  | .mkrr16 a _ _ | .mkrnr16 a _ _ | .mkrej16 a _ _ | .mksrej16 a _ _ => some a.d
  | .amk .. | .adec .. | .aenc .. | .astr .. | .ccls .. | .fenc .. | .fstr .. | .fget ..
  | .getts .. | .setts .. | .getdl .. | .setdl ..
  | .i8 .. | .rr8 .. | .rnr8 .. | .rej8 .. | .srej8 .. | .ui .. | .uother ..
  | .i16 .. | .rr16 .. | .rnr16 .. | .rej16 .. | .srej16 .. | .raw .. | .addr7 .. => none

/-- The instruction produces octets in `OBUF` (R50, R299). -/
def producesOctets : Instr → Bool
  | .aenc .. | .astr .. | .fenc .. | .fstr .. => true
  | .amk .. | .adec .. | .ccls .. | .fparse .. | .fdecb .. | .fdecf ..
  | .mkraw .. | .mkui .. | .mki8 .. | .mki16 .. | .mkrr8 .. | .mkrnr8 .. | .mkrej8 .. | .mksrej8 ..
  | .mkrr16 .. | .mkrnr16 .. | .mkrej16 .. | .mksrej16 ..
  | .fcpy .. | .fget .. | .ffree .. | .getts .. | .setts .. | .getdl .. | .setdl ..
  | .i8 .. | .rr8 .. | .rnr8 .. | .rej8 .. | .srej8 .. | .ui .. | .uother ..
  | .i16 .. | .rr16 .. | .rnr16 .. | .rej16 .. | .srej16 .. | .raw .. | .addr7 .. => false

end Sys2Proof.Machine
end

