-- ==== Sys2Proof/Certificates/Slice0/Obligations.lean ====
section
/-! DEFINITION. The statements for the provers, from the spec's numbered rules. A helper below writes a shape of the
spec out once, in the spec's own terms: what a fault leaves (60_exceptions.md R266), what a producing operation
leaves (20_memory.md R56), the frame a constructor builds (43_frame_assembler.md R200). -/

open Sys2Proof Sys2Proof.Machine

/-! ## Shapes the statements share -/

namespace Sys2Proof.Claims

/-- R266 written out: the code in `ERR` with `UCF = 0` and `VAR = 0`, the error in the response, nothing else. -/
def stopped (s : State) (e : Stop) : State :=
  { s with
    status :=
      match e with
      | .raise (.insufficientData _) => 0x01
      | .raise (.malformedAddress _) => 0x02
      | .raise .deadlineImmutable => 0x03
      | .refuse _ => 0x07
    resp :=
      match e with
      | .raise f => .fault f
      | .refuse r => .refused r }

/-- The outcome is a next state in which `OBUF` holds exactly the octets `r`, `OLEN` is their number, `STATUS` is
0x00 and nothing else differs from `s` (R56). -/
def Produces (o : Host.Outcome State Fault Refusal) (s : State) (r : List Byte) : Prop :=
  ∃ t, o = .next t ∧ (∀ a, Memory.get t.obuf a = r[a]?) ∧
    t = { s with status := 0x00, resp := .ok .unit, obuf := t.obuf, olen := r.length }

/-- `A`-`Z` or `0`-`9`. -/
def CallChar (c : Ch) : Prop := (0x41 ≤ c.toNat ∧ c.toNat ≤ 0x5A) ∨ (0x30 ≤ c.toNat ∧ c.toNat ≤ 0x39)

/-- The call and the SSID form an Address (R123: 1 to 6 characters `A`-`Z`, `0`-`9`; SSID at most 15). -/
def GoodCall (call : List Ch) (ssid : Nat) : Prop :=
  1 ≤ call.length ∧ call.length ≤ 6 ∧ (∀ c ∈ call, CallChar c) ∧ ssid ≤ 15

/-- An operand that is an Address. -/
def Good (a : AddrOperand) : Prop := GoodCall a.call a.ssid

/-- The Address an operand stands for. -/
def theAddress (a : AddrOperand) : Address := ⟨a.call, BitVec.ofNat 4 a.ssid, a.ch, a.rsv, a.ext⟩

/-- The `MalformedAddress` of an operand (R123, R262 causes c and d). -/
def badOperand (call : List Ch) (ssid : Nat) : Stop := .raise (.malformedAddress (.operand call ssid))

/-- The selector operands and the modulus each selects (R92, R176): absent is `NONE`. -/
def Selects (sel : Option (BitVec 2)) (m : Modulus) : Prop :=
  (m = .nomod ∧ (sel = none ∨ sel = some 0)) ∨ (m = .m8 ∧ sel = some 1) ∨ (m = .m128 ∧ sel = some 2)

/-- The text of an address (R98). -/
def addressText (call : List Ch) (ssid : Nat) : List Byte :=
  call.map (fun c => c.setWidth 8) ++
    (if ssid = 0 then []
     else if ssid ≤ 9 then [0x2D, BitVec.ofNat 8 (0x30 + ssid)]
     else [0x2D, 0x31, BitVec.ofNat 8 (0x30 + (ssid - 10))])

/-- `STATUS` after an `ok` that wrote a frame with this body (R29). -/
def frameStatus (b : Body) (ucf : Bool) : BitVec 8 := variantCode (bodyVariant b) ++ BitVec.ofBool ucf ++ 0b000#3

/-- The frame of R200, every field written out. -/
def built (s : State) (a : MkArgs) (b : Body) : Frame :=
  { dest := ⟨a.dest.call, BitVec.ofNat 4 a.dest.ssid, a.cr, a.dest.rsv, false⟩
    src := ⟨a.src.call, BitVec.ofNat 4 a.src.ssid, a.srcCr.getD (!a.cr), a.src.rsv, a.rpt.isEmpty⟩
    rpt := a.rpt.mapIdx fun i x => ⟨x.call, BitVec.ofNat 4 x.ssid, x.ch, x.rsv, decide (i + 1 = a.rpt.length)⟩
    ts := a.ts.getD s.timeNow
    dl := a.dl
    body := b }

/-- The conditions of R200 before a constructor's own fields. -/
def CommonOk (s : State) (a : MkArgs) : Prop :=
  a.d < s.slots.length ∧ Good a.dest ∧ Good a.src ∧ (∀ x ∈ a.rpt, Good x) ∧ a.rpt.length ≤ s.params.rptMax ∧
    (∀ v ∈ a.ts, v < 2 ^ s.params.tsW) ∧ (∀ v ∈ a.dl, v < 2 ^ s.params.tsW)

/-- The frame with `n` octets after its address field fits (R200, R26). -/
def Fits (s : State) (a : MkArgs) (n : Nat) : Prop := 14 + 7 * a.rpt.length + n ≤ s.params.lenMax

/-- The outcome of a constructor that ends `ok`: the frame in its slot, `STATUS.VAR` its code, one sample of `TIME`
taken if `ts` was absent, nothing else. -/
def Builds (o : Host.Outcome State Fault Refusal) (s : State) (a : MkArgs) (b : Body) : Prop :=
  o = .next { s with
    slots := s.slots.set a.d (some (built s a b))
    status := frameStatus b false
    resp := .ok .unit
    timeDraws := s.timeDraws + (if a.ts.isNone then 1 else 0) }

/-- The twelve constructors on the same operands. -/
def constructors (a : MkArgs) (ns nr : Nat) (pf : Option Nat) (pid : Nat) : List Instr :=
  [.mkraw a, .mkui a pf pid, .mki8 a ns nr pf pid, .mki16 a ns nr pf pid,
   .mkrr8 a nr pf, .mkrnr8 a nr pf, .mkrej8 a nr pf, .mksrej8 a nr pf,
   .mkrr16 a nr pf, .mkrnr16 a nr pf, .mkrej16 a nr pf, .mksrej16 a nr pf]

/-- The modulus a control format needs (R155 (a)). -/
def Needs : ControlField → Modulus → Prop
  | .ui _, _ => True
  | .i8 .., m => m = .m8
  | .s8 .., m => m = .m8
  | .i16 .., m => m = .m128
  | .s16 .., m => m = .m128

/-- The cases of R180 in which a region stays raw. -/
def Fallback (m : Modulus) (p : List Byte) : Prop :=
  match p with
  | [] => False
  | c0 :: t =>
    (classOf c0 = .unnumbered ∧ c0 &&& 0xEF ≠ 0x03) ∨
    (classOf c0 ≠ .unnumbered ∧ m = .nomod) ∨
    (classOf c0 = .supervisory ∧ m = .m8 ∧ t ≠ []) ∨
    (classOf c0 = .supervisory ∧ m = .m128 ∧ (c0.extractLsb' 4 4 ≠ 0 ∨ 2 ≤ t.length))

/-- The modulus under which a frame's octets decode to it again (R185 (b)). -/
def Matches (b : Body) (m : Modulus) : Prop :=
  match b with
  | .raw p => Fallback m p
  | .ui .. => True
  | .i8 .. => m = .m8
  | .s8 .. => m = .m8
  | .i16 .. => m = .m128
  | .s16 .. => m = .m128

/-- The operations that sample `TIME` (R32, R247). -/
def samplesTime : Instr → Prop
  | .fparse _ | .fdecb .. => True
  | .mkraw a | .mkui a _ _ | .mki8 a _ _ _ _ | .mki16 a _ _ _ _
  | .mkrr8 a _ _ | .mkrnr8 a _ _ | .mkrej8 a _ _ | .mksrej8 a _ _
  | .mkrr16 a _ _ | .mkrnr16 a _ _ | .mkrej16 a _ _ | .mksrej16 a _ _ => a.ts = none
  | _ => False

/-- A sequence of operations, each performed on the state the one before left. -/
def perform : List Instr → State → Host.Outcome State Fault Refusal
  | [], s => .next s
  | i :: is, s =>
    match exec i s with
    | .next t => perform is t
    | .fault e => .fault e
    | .refused e => .refused e

end Sys2Proof.Claims

open Sys2Proof.Claims

/-! ## Decoding, and the step -/

/-- Words written out bit by bit from R80, R88, R90, R93 and R100 decode to what they stand for. The operand octets
of the requests are the model's own carriage (log entry 1). -/
def Obligations.WordsWrittenOutDecode : Prop :=
  decode (.request [0x02, 0x01, 0x07]) = .ok (.adec (some 7)) ∧
  decode (.request [0x10, 0x00, 0x01, 0x02]) = .ok (.ccls none (some 2)) ∧
  decode (.request [0x21, 0x00, 0x01, 0x01]) = .ok (.fdecb 0 (some 1)) ∧
  decode (.request [0x40, 0x02]) = .ok (.fenc 2) ∧
  decode (.request [0x53, 0x01, 0x84, 0x07]) = .ok (.setdl 1 900) ∧
  decode (.control .m8 [0b10100110]) = .ok (.i8 3 5 false) ∧
  decode (.control .m8 [0b10110001]) = .ok (.rr8 5 true) ∧
  decode (.control .m8 [0b01110101]) = .ok (.rnr8 3 true) ∧
  decode (.control .nomod [0b00010011]) = .ok (.ui true) ∧
  decode (.control .m8 [0b00101111]) = .ok (.uother 0x2F) ∧
  decode (.control .m128 [0b00000110, 0b11001000]) = .ok (.i16 3 100 false) ∧
  decode (.control .m128 [0b00001101, 0b11001000]) = .ok (.srej16 100 false) ∧
  decode (.control .nomod [0b10110001]) = .ok (.raw .nomod [0b10110001]) ∧
  decode (.address [0x82, 0x40, 0x40, 0x40, 0x40, 0x40, 0x61]) =
    .ok (.addr7 [0x82, 0x40, 0x40, 0x40, 0x40, 0x40, 0x61])

/-- Decode and encode agree, for every well-formed instruction and every operand value (the octets of a request's
operands are the model's carriage, log entry 1). -/
def Obligations.DecodeOfEncodeIsTheInstruction : Prop :=
  ∀ i, WellFormed i = true → decode (encode i) = .ok i

/-- No bit of a control field is dropped: what a bare field decodes to is well-formed, and encodes to the whole
region when it is raw, to the octet itself when no unnumbered format claims it, and otherwise to the octets the claim
of `ctl_dec` covers, which are the encoding of its fields under the modulus it needs, `UI` alone being claimed under
every modulus (R155 (b), R142; the bare carriage is log entry 2). -/
def Obligations.BareFieldsEncodeToTheirOctets : Prop :=
  ∀ m p i, decode (.control m p) = .ok i →
    WellFormed i = true ∧
    ((i = .raw m p ∧ encode i = .control m p) ∨
     (∃ c0 t, p = c0 :: t ∧ i = .uother c0 ∧ ctlDec p m = .ok .unrecognised ∧ encode i = .control .m8 [c0]) ∨
     (∃ f hl m', ctlDec p m = .ok (.claim f hl) ∧ ctlEnc f = p.take hl ∧ encode i = .control m' (p.take hl) ∧
       Needs f m' ∧ (m' = m ∨ ∃ pf, f = .ui pf)))

/-- When the host's next act is an input that decodes to `i`, a step performs `i` on the state without that act. An
input that decodes to none is answered on that state, which otherwise stays: a request without a command code, or
without the operands of its code, is refused (92_eei_decisions.md D33; the reasons are the model's, log entry 1); a
control field without its first or its second octet is `InsufficientData`, and an address of fewer than seven octets
`MalformedAddress` (R142, R124; the bare carriage is log entry 2). So no input stops the machine (R5). -/
def Obligations.StepPerformsTheDecodedInstruction : Prop :=
  ∀ (s : State) (it : Item) (rest : List HostEvent), s.inbox = .item it :: rest →
    (∀ i, decode it = .ok i → step s = exec i { s with inbox := rest }) ∧
    (it = .request [] → step s = .next { stopped s (.refuse .unknownOp) with inbox := rest }) ∧
    (∀ c, decode it = .error (.badOperands c) →
      step s = .next { stopped s (.refuse .fieldRange) with inbox := rest }) ∧
    (∀ m, it = .control m [] →
      step s = .next { stopped s (.raise (.insufficientData .controlOctet)) with inbox := rest }) ∧
    (∀ c0 : Byte, it = .control .m128 [c0] → c0 &&& 0x01 = 0x00 ∨ c0 &&& 0xF3 = 0x01 →
      step s = .next { stopped s (.raise (.insufficientData .secondControlOctet)) with inbox := rest }) ∧
    (∀ o, it = .address o → o.length < 7 →
      step s = .next { stopped s (.raise (.malformedAddress (.short o.length))) with inbox := rest }) ∧
    ∃ t, step s = .next t

/-- "Every other value of `op` is `refused` with reason `unknown-op`" (R100), before anything else is looked at. -/
def Obligations.UnassignedCommandCodesAreRefused : Prop :=
  ∀ (s : State) (c : Byte) (bs : List Byte) (rest : List HostEvent),
    s.inbox = .item (.request (c :: bs)) :: rest →
    c ∉ ([0x01, 0x02, 0x03, 0x04, 0x10, 0x20, 0x21, 0x22, 0x30, 0x31, 0x32, 0x33, 0x34, 0x35, 0x36, 0x37, 0x38,
      0x39, 0x3A, 0x3B, 0x40, 0x41, 0x42, 0x43, 0x44, 0x50, 0x51, 0x52, 0x53] : List Byte) →
    step s = .next { s with inbox := rest, status := 0x07, resp := .refused .unknownOp }

/-- The host's acts other than inputs (R13, R291): with none pending the block waits; `ILEN` takes `0 .. LEN_MAX`
and a larger value stops the model (the spec gives it no meaning, R265); `TIME` takes a `TS_W`-bit level, which is then
what `TIME()` samples (R32), or is given over to an outside clock, whose samples are free values. That the acts are queued in the state is the model's choice (log entries 4, 8, 16). -/
def Obligations.HostActsLandBetweenOperations : Prop :=
  ∀ (s : State) (rest : List HostEvent),
    (s.inbox = [] → step s = .next s) ∧
    (∀ n, s.inbox = .setIlen n :: rest → n ≤ s.params.lenMax →
      step s = .next { s with inbox := rest, ilen := n }) ∧
    (∀ n, s.inbox = .setIlen n :: rest → s.params.lenMax < n → step s = .fault .ilenAboveLenMax) ∧
    (∀ v, s.inbox = .driveTime (some v) :: rest → v < 2 ^ s.params.tsW →
      ∃ t, step s = .next t ∧ t = { s with inbox := rest, time := some v } ∧ t.timeNow = v) ∧
    (∀ v, s.inbox = .driveTime (some v) :: rest → 2 ^ s.params.tsW ≤ v → step s = .fault .timeTooWide) ∧
    (s.inbox = .driveTime none :: rest →
      ∃ t, step s = .next t ∧ t = { s with inbox := rest, time := none } ∧
        t.timeNow = Config.timeInput s.timeDraws % 2 ^ s.params.tsW)

/-- A host write of octets to `IBUF` (R13, R50): inside `LEN_MAX` octets, `MemRead` of the run gives the octets
written (R11), every other offset reads as before, the canonical form is kept, and nothing else changes; outside, the
model stops. -/
def Obligations.HostWritesToIbufReadBack : Prop :=
  ∀ (s : State) (off : Nat) (octets : List Byte) (rest : List HostEvent),
    s.inbox = .writeIbuf off octets :: rest →
    (off + octets.length ≤ s.params.lenMax →
      ∃ t, step s = .next t ∧ t = { s with inbox := rest, ibuf := t.ibuf } ∧
        (Memory.wf s.ibuf = true → Memory.wf t.ibuf = true) ∧
        t.memRead off octets.length = octets ∧
        (∀ a, a < off ∨ off + octets.length ≤ a → t.ibufOctet a = s.ibufOctet a) ∧
        ∀ a, Memory.get t.ibuf a =
          if off ≤ a ∧ a < off + octets.length then octets[a - off]? else Memory.get s.ibuf a) ∧
    (s.params.lenMax < off + octets.length → step s = .fault .ibufOutOfRange)

/-! ## Address codec -/

/-- R120, both predicates and their laws. -/
def Obligations.CallsignValidityIsTheSpecs : Prop :=
  (∀ c : List Ch, c.length = 6 →
    (valid6 c = true ↔
      ∃ n, 1 ≤ n ∧ n ≤ 6 ∧ (∀ x ∈ c.take n, CallChar x) ∧ (∀ x ∈ c.drop n, x = 0x20))) ∧
  (∀ (c : List Ch) (n : Nat), c.length = 6 → 1 ≤ n → n ≤ 6 → (∀ x ∈ c.take n, CallChar x) →
    (∀ x ∈ c.drop n, x = 0x20) → trim c = c.take n) ∧
  (∀ call : List Ch,
    validCall call = true ↔ 1 ≤ call.length ∧ call.length ≤ 6 ∧ ∀ x ∈ call, CallChar x) ∧
  (∀ call : List Ch, pad6 call = call ++ List.replicate (6 - call.length) 0x20) ∧
  (∀ call : List Ch, validCall call = true → valid6 (pad6 call) = true ∧ trim (pad6 call) = call)

/-- R122: seven octets, the characters shifted left by one, padded with 0x40, and the seventh octet's fields. -/
def Obligations.AddressEncodesToSevenOctets : Prop :=
  ∀ a : Address, validCall a.call = true →
    (addrEnc7 a).length = 7 ∧
    (∀ k c, a.call[k]? = some c → (octet (addrEnc7 a) k).toNat = 2 * c.toNat) ∧
    (∀ k, a.call.length ≤ k → k < 6 → octet (addrEnc7 a) k = 0x40) ∧
    octet (addrEnc7 a) 6 = BitVec.ofBool a.ch ++ a.rsv ++ a.ssid ++ BitVec.ofBool a.ext

/-- R127 (a), (b), (c). -/
def Obligations.AddressCodecRoundTrips : Prop :=
  (∀ a : Address, a.valid = true → addrDec7 (addrEnc7 a) = .ok a) ∧
  (∀ (o : List Byte) (a : Address), o.length = 7 → addrDec7 o = .ok a →
    addrEnc7 a = (o.take 6).map (fun b => b &&& 0xFE) ++ o.drop 6 ∧
    (addrEnc7 a = o ↔ ∀ b ∈ o.take 6, b.getLsbD 0 = false)) ∧
  (∀ a b : Address, a.valid = true → b.valid = true → addrEnc7 a = addrEnc7 b → a = b)

/-- `AMK` (R123): an Address with `rsv` defaulting to `0b11` and `ext` to 0, or `MalformedAddress`. -/
def Obligations.AmkMakesAnAddress : Prop :=
  ∀ (call : List Ch) (ssid : Nat) (ch : Bool) (rsv : Option (BitVec 2)) (ext : Option Bool) (s : State),
    commandCode (.amk call ssid ch rsv ext) = some 0x01 ∧
    (GoodCall call ssid →
      exec (.amk call ssid ch rsv ext) s = .next { s with
        status := 0x00
        resp := .ok (.address ⟨call, BitVec.ofNat 4 ssid, ch, rsv.getD 0b11, ext.getD false⟩) }) ∧
    (¬ GoodCall call ssid →
      exec (.amk call ssid ch rsv ext) s = .next (stopped s (badOperand call ssid)))

/-- `ADEC` (R124): the address block at `off` (default 0), or its own `MalformedAddress` for a short input or a bad
callsign. -/
def Obligations.AdecDecodesTheBlockAtAnOffset : Prop :=
  ∀ (off : Option Nat) (s : State),
    commandCode (.adec off) = some 0x02 ∧
    (s.ilen < off.getD 0 + 7 →
      ∃ n, exec (.adec off) s = .next (stopped s (.raise (.malformedAddress (.short n)))) ∧
        (off.getD 0 ≤ s.ilen → n = s.ilen - off.getD 0)) ∧
    (∀ o, off.getD 0 + 7 ≤ s.ilen → o = s.memRead (off.getD 0) 7 → valid6 (blockChars o) = true →
      exec (.adec off) s = .next { s with
        status := 0x00
        resp := .ok (.address
          ⟨trim (blockChars o), (octet o 6).extractLsb' 1 4, (octet o 6).getLsbD 7, (octet o 6).extractLsb' 5 2,
            (octet o 6).getLsbD 0⟩) }) ∧
    (∀ o, off.getD 0 + 7 ≤ s.ilen → o = s.memRead (off.getD 0) 7 → valid6 (blockChars o) = false →
      exec (.adec off) s = .next (stopped s (.raise (.malformedAddress (.block o)))))

/-- `AENC` (R125): the seven octets in `OBUF`, `OLEN = 7`. -/
def Obligations.AencWritesSevenOctets : Prop :=
  ∀ (a : AddrOperand) (s : State),
    commandCode (.aenc a) = some 0x03 ∧
    (Good a → 15 ≤ s.params.lenMax → Produces (exec (.aenc a) s) s (addrEnc7 (theAddress a)))

/-- `ASTR` (R126, R98): the callsign, and `-` with the SSID in decimal unless it is 0. -/
def Obligations.AstrWritesTheAddressText : Prop :=
  ∀ (a : AddrOperand) (s : State),
    commandCode (.astr a) = some 0x04 ∧
    (Good a → 15 ≤ s.params.lenMax → Produces (exec (.astr a) s) s (addressText a.call a.ssid))

/-- `ADDR7` (R80) and a raw region (R180) on their own: performing them is the model's choice (log entry 2); the
address is what R121 decodes, the region stays raw as R180 keeps it. -/
def Obligations.BareAddressesAndRawRegionsArePerformed : Prop :=
  (∀ (o : List Byte) (s : State), o.length = 7 →
    (valid6 (blockChars o) = true →
      exec (.addr7 o) s = .next { s with
        status := 0x00
        resp := .ok (.address
          ⟨trim (blockChars o), (octet o 6).extractLsb' 1 4, (octet o 6).getLsbD 7, (octet o 6).extractLsb' 5 2,
            (octet o 6).getLsbD 0⟩) }) ∧
    (valid6 (blockChars o) = false →
      exec (.addr7 o) s = .next (stopped s (.raise (.malformedAddress (.block o)))))) ∧
  (∀ (m : Modulus) (p : List Byte) (s : State), Fallback m p →
    exec (.raw m p) s = .next { s with status := 0x08, resp := .ok (.promoted (.raw p)) })

/-- A request whose Address operand is no Address is answered as `AMK` would answer it, after the slot number and
before anything else (R123, "Corner cases"; R262 cause d). That the first bad operand in the order `dest`, `src`,
`rpt[0]`, … is the one reported is the model's reading (log entry 14). -/
def Obligations.MalformedOperandsAreAnsweredAsAmkAnswers : Prop :=
  (∀ (a : AddrOperand) (s : State), ¬ Good a →
    exec (.aenc a) s = .next (stopped s (badOperand a.call a.ssid)) ∧
    exec (.astr a) s = .next (stopped s (badOperand a.call a.ssid)) ∧
    exec (.amk a.call a.ssid a.ch (some a.rsv) (some a.ext)) s = exec (.aenc a) s) ∧
  (∀ (a : MkArgs) (ns nr : Nat) (pf : Option Nat) (pid : Nat) (s : State) (before : List AddrOperand)
      (x : AddrOperand) (after : List AddrOperand),
    a.d < s.slots.length → a.dest :: a.src :: a.rpt = before ++ x :: after → (∀ y ∈ before, Good y) → ¬ Good x →
    ∀ i ∈ constructors a ns nr pf pid, exec i s = .next (stopped s (badOperand x.call x.ssid)))

/-! ## Control-field classifier -/

/-- R140: the class from the two low bits, every octet in exactly one class. -/
def Obligations.ClassIsTheTwoLowBits : Prop :=
  ∀ c0 : Byte,
    (classOf c0 = .information ↔ c0.getLsbD 0 = false) ∧
    (classOf c0 = .supervisory ↔ c0.extractLsb' 0 2 = 0b01) ∧
    (classOf c0 = .unnumbered ↔ c0.extractLsb' 0 2 = 0b11)

/-- R155 (a) to (d). -/
def Obligations.ControlFieldCodecRoundTrips : Prop :=
  (∀ (f : ControlField) (t : List Byte) (m : Modulus), Needs f m →
    ctlDec (ctlEnc f ++ t) m = .ok (.claim f (ctlEnc f).length)) ∧
  (∀ (p : List Byte) (m : Modulus) (f : ControlField) (hl : Nat), ctlDec p m = .ok (.claim f hl) →
    ctlEnc f = p.take hl ∧ hl ≤ p.length) ∧
  (∀ (p : List Byte) (f : ControlField) (hl : Nat), ctlDec p .nomod = .ok (.claim f hl) → ∃ pf, f = .ui pf) ∧
  (ctlDec [0x01, 0x00] .m128 = .ok (.claim (.s16 .rr 0 false) 2) ∧
    ctlDec [0x01, 0x00] .m8 = .ok (.claim (.s8 .rr 0 false) 1))

/-- `CCLS` (R141): the class and the claim of the octets from `off` on, `UCF` when no format claims them. -/
def Obligations.CclsReportsClassAndClaim : Prop :=
  ∀ (off : Option Nat) (sel : Option (BitVec 2)) (s : State),
    commandCode (.ccls off sel) = some 0x10 ∧
    (sel = some 3 → exec (.ccls off sel) s = .next (stopped s (.refuse .badModulus))) ∧
    (∀ m, Selects sel m → s.ilen < off.getD 0 + 1 →
      exec (.ccls off sel) s = .next (stopped s (.raise (.insufficientData .controlOctet)))) ∧
    (∀ m p, Selects sel m → off.getD 0 + 1 ≤ s.ilen → p = s.memRead (off.getD 0) (s.ilen - off.getD 0) →
      (∀ e, ctlDec p m = .error e → exec (.ccls off sel) s = .next (stopped s e)) ∧
      (∀ dec, ctlDec p m = .ok dec →
        exec (.ccls off sel) s = .next { s with
          status := if dec = .unrecognised then 0x08 else 0x00
          resp := .ok (.classified (classOf (octet p 0)) dec) }))

/-- The information formats `I8` (R143) and `I16` (R145): recognition, fields, encoding, and what the classifier
reports of one on its own (the bare carriage is log entry 2). -/
def Obligations.InformationFormats : Prop :=
  (∀ (ns nr : BitVec 3) (pf : Bool) (s : State),
    encode (.i8 ns nr pf) =
      .control .m8 [(nr.setWidth 8 <<< 5) ||| ((BitVec.ofBool pf).setWidth 8 <<< 4) ||| (ns.setWidth 8 <<< 1)] ∧
    exec (.i8 ns nr pf) s = .next { s with
      status := 0x00, resp := .ok (.classified .information (.claim (.i8 ns nr pf) 1)) }) ∧
  (∀ c0 : Byte, c0 &&& 0x01 = 0x00 →
    ctlDec [c0] .m8 = .ok (.claim (.i8 (c0.extractLsb' 1 3) (c0.extractLsb' 5 3) (c0.getLsbD 4)) 1) ∧
    ctlDec [c0] .nomod = .ok .unrecognised ∧
    ctlDec [c0] .m128 = .error (.raise (.insufficientData .secondControlOctet))) ∧
  (∀ (ns nr : BitVec 7) (pf : Bool) (s : State),
    encode (.i16 ns nr pf) =
      .control .m128 [ns.setWidth 8 <<< 1, (nr.setWidth 8 <<< 1) ||| (BitVec.ofBool pf).setWidth 8] ∧
    exec (.i16 ns nr pf) s = .next { s with
      status := 0x00, resp := .ok (.classified .information (.claim (.i16 ns nr pf) 2)) }) ∧
  (∀ c0 c1 : Byte, c0 &&& 0x01 = 0x00 →
    ctlDec [c0, c1] .m128 = .ok (.claim (.i16 (c0.extractLsb' 1 7) (c1.extractLsb' 1 7) (c1.getLsbD 0)) 2))

/-- The modulo-8 supervisory formats `RR8` (R144), `RNR8` (R146), `REJ8` (R147), `SREJ8` (R156). -/
def Obligations.SupervisoryFormatsModulo8 : Prop :=
  ∀ row ∈ ([(.rr, Instr.rr8, 0x01), (.rnr, Instr.rnr8, 0x05), (.rej, Instr.rej8, 0x09),
      (.srej, Instr.srej8, 0x0D)] : List (Supervisory × (BitVec 3 → Bool → Instr) × Byte)),
    (∀ (nr : BitVec 3) (pf : Bool) (s : State),
      encode (row.2.1 nr pf) =
        .control .m8 [(nr.setWidth 8 <<< 5) ||| ((BitVec.ofBool pf).setWidth 8 <<< 4) ||| row.2.2] ∧
      exec (row.2.1 nr pf) s = .next { s with
        status := 0x00, resp := .ok (.classified .supervisory (.claim (.s8 row.1 nr pf) 1)) }) ∧
    (∀ c0 : Byte, c0 &&& 0x0F = row.2.2 →
      ctlDec [c0] .m8 = .ok (.claim (.s8 row.1 (c0.extractLsb' 5 3) (c0.getLsbD 4)) 1) ∧
      decode (.control .m8 [c0]) = .ok (row.2.1 (c0.extractLsb' 5 3) (c0.getLsbD 4)))

/-- The modulo-128 supervisory formats `RR16` (R148), `RNR16` (R149), `REJ16` (R150), `SREJ16` (R151). -/
def Obligations.SupervisoryFormatsModulo128 : Prop :=
  ∀ row ∈ ([(.rr, Instr.rr16, 0x01), (.rnr, Instr.rnr16, 0x05), (.rej, Instr.rej16, 0x09),
      (.srej, Instr.srej16, 0x0D)] : List (Supervisory × (BitVec 7 → Bool → Instr) × Byte)),
    (∀ (nr : BitVec 7) (pf : Bool) (s : State),
      encode (row.2.1 nr pf) =
        .control .m128 [row.2.2, (nr.setWidth 8 <<< 1) ||| (BitVec.ofBool pf).setWidth 8] ∧
      exec (row.2.1 nr pf) s = .next { s with
        status := 0x00, resp := .ok (.classified .supervisory (.claim (.s16 row.1 nr pf) 2)) }) ∧
    (∀ c1 : Byte,
      ctlDec [row.2.2, c1] .m128 = .ok (.claim (.s16 row.1 (c1.extractLsb' 1 7) (c1.getLsbD 0)) 2) ∧
      decode (.control .m128 [row.2.2, c1]) = .ok (row.2.1 (c1.extractLsb' 1 7) (c1.getLsbD 0))) ∧
    ctlDec [row.2.2] .m128 = .error (.raise (.insufficientData .secondControlOctet)) ∧
    (∀ (c0 : Byte) (t : List Byte), c0.extractLsb' 0 4 = row.2.2.extractLsb' 0 4 → c0.extractLsb' 4 4 ≠ 0 →
      ctlDec (c0 :: t) .m128 = .ok .unrecognised)

/-- The unnumbered formats `UI` (R152) and `UOTHER` (R153), under every modulus. -/
def Obligations.UnnumberedFormats : Prop :=
  (∀ (pf : Bool) (s : State),
    encode (.ui pf) = .control .m8 [0x03 ||| ((BitVec.ofBool pf).setWidth 8 <<< 4)] ∧
    exec (.ui pf) s = .next { s with
      status := 0x00, resp := .ok (.classified .unnumbered (.claim (.ui pf) 1)) }) ∧
  (∀ (c0 : Byte) (t : List Byte) (m : Modulus), c0 &&& 0xEF = 0x03 →
    ctlDec (c0 :: t) m = .ok (.claim (.ui (c0.getLsbD 4)) 1) ∧
    decode (.control m (c0 :: t)) = .ok (.ui (c0.getLsbD 4))) ∧
  (∀ c0 : Byte, c0 &&& 0xEF = 0x03 ↔ c0 = 0x03 ∨ c0 = 0x13) ∧
  (∀ (c0 : Byte) (t : List Byte) (m : Modulus) (s : State), c0 &&& 0x03 = 0x03 → c0 &&& 0xEF ≠ 0x03 →
    ctlDec (c0 :: t) m = .ok .unrecognised ∧
    exec (.uother c0) s = .next { s with
      status := 0x08, resp := .ok (.classified .unnumbered .unrecognised) })

/-! ## Frame parser -/

/-- `scan_addresses` (R170) finds the one block marked last: the blocks before it are not marked, a control octet
follows, and every failure is `InsufficientData`. -/
def Obligations.ScanFindsTheBlockMarkedLast : Prop :=
  (∀ (b : List Byte) (k : Nat),
    scanAddresses b = .ok k ↔
      2 ≤ k ∧ 7 * k + 1 ≤ b.length ∧ (∀ i, i + 1 < k → (octet b (7 * i + 6)).getLsbD 0 = false) ∧
        (octet b (7 * k - 1)).getLsbD 0 = true) ∧
  (∀ (b : List Byte) (e : Stop), scanAddresses b = .error e → ∃ w, e = .raise (.insufficientData w))

/-- `parse_raw` (R171): the scan's fault first, then the repeater bound, then the address blocks in increasing order
with the lowest bad one reported, else every block's address, the last-address bits where R25 has them, and the
untouched rest, which has at least one octet. -/
def Obligations.ParseRawReadsEveryBlockInOrder : Prop :=
  ∀ (rptMax : Nat) (b : List Byte),
    (∀ e, scanAddresses b = .error e → parseRaw rptMax b = .error e) ∧
    (∀ k, scanAddresses b = .ok k →
      (rptMax < k - 2 → parseRaw rptMax b = .error (.refuse .tooManyRepeaters)) ∧
      (k - 2 ≤ rptMax →
        (∀ i e, i < k → addrDec7 (slice b (7 * i) 7) = .error e →
          (∀ j, j < i → ∃ a, addrDec7 (slice b (7 * j) 7) = .ok a) → parseRaw rptMax b = .error e) ∧
        ((∀ i, i < k → ∃ a, addrDec7 (slice b (7 * i) 7) = .ok a) →
          ∃ r, parseRaw rptMax b = .ok r ∧ r.payload = b.drop (7 * k) ∧ r.payload ≠ [] ∧ r.rpt.length = k - 2 ∧
            (∀ ts, extPositional (r.frame (.raw r.payload) ts) = true) ∧
            ∀ i a, (r.dest :: r.src :: r.rpt)[i]? = some a → addrDec7 (slice b (7 * i) 7) = .ok a)))

/-- R180: exactly the listed cases stay raw, with `ucf = 1` and the region untouched. -/
def Obligations.UnclaimedRegionsStayRaw : Prop :=
  (∀ (m : Modulus) (p : List Byte), promote p m = .ok (.raw p, true) ↔ Fallback m p) ∧
  (∀ (m : Modulus) (p q : List Byte) (u : Bool), promote p m = .ok (.raw q, u) → q = p ∧ u = true)

/-- Promotion to the typed variants (R174, R175, R177, R178, R179), from the octets of the region: each arm's test,
fields and payload. -/
def Obligations.PromotionReadsTheTypedFields : Prop :=
  (∀ (pf : Bool) (t : List Byte) (m : Modulus), promote (ctlEnc (.ui pf) ++ t) m =
    match t with
    | [] => .error (.raise (.insufficientData .pid))
    | pid :: payload => .ok (.ui pf pid payload, false)) ∧
  (∀ (ns nr : BitVec 3) (pf : Bool) (t : List Byte), promote (ctlEnc (.i8 ns nr pf) ++ t) .m8 =
    match t with
    | [] => .error (.raise (.insufficientData .pid))
    | pid :: payload => .ok (.i8 ns nr pf pid payload, false)) ∧
  (∀ (ns nr : BitVec 7) (pf : Bool) (t : List Byte), promote (ctlEnc (.i16 ns nr pf) ++ t) .m128 =
    match t with
    | [] => .error (.raise (.insufficientData .pid))
    | pid :: payload => .ok (.i16 ns nr pf pid payload, false)) ∧
  (∀ (st : Supervisory) (nr : BitVec 3) (pf : Bool) (t : List Byte), promote (ctlEnc (.s8 st nr pf) ++ t) .m8 =
    match t with
    | [] => .ok (.s8 st nr pf, false)
    | x :: r => .ok (.raw (ctlEnc (.s8 st nr pf) ++ x :: r), true)) ∧
  (∀ (st : Supervisory) (nr : BitVec 7) (pf : Bool) (t : List Byte), promote (ctlEnc (.s16 st nr pf) ++ t) .m128 =
    match t with
    | [] => .ok (.s16 st nr pf, false)
    | x :: r => .ok (.raw (ctlEnc (.s16 st nr pf) ++ x :: r), true))

/-- No octet of the region after the address field is lost, whichever variant claims it (R221, R185). -/
def Obligations.PromotionKeepsEveryOctet : Prop :=
  ∀ (p : List Byte) (m : Modulus) (b : Body) (u : Bool), promote p m = .ok (b, u) → bodyBytes b = p

/-- R184: where `FDECB` decodes the input, `FDECB` on the input cut anywhere before its first control octet gives
`InsufficientData` under every modulus and changes nothing else; and, for any input at all, it does so whenever the
address scan fails, whatever the callsigns. -/
def Obligations.TruncationIsAlwaysInsufficientData : Prop :=
  (∀ (d : Nat) (sel sel' : Option (BitVec 2)) (m' : Modulus) (s t : State) (f : Frame) (n : Nat),
    exec (.fdecb d sel) s = .next t → t.resp = .ok .unit → t.slots[d]? = some (some f) → Selects sel' m' →
    n < 7 * (f.rpt.length + 2) + 1 →
    ∃ w, exec (.fdecb d sel') { s with ilen := n } =
      .next { s with ilen := n, status := 0x01, resp := .fault (.insufficientData w) }) ∧
  (∀ (d : Nat) (sel : Option (BitVec 2)) (m : Modulus) (s : State) (e : Stop),
    d < s.slots.length → Selects sel m → scanAddresses (s.memRead 0 s.ilen) = .error e →
    ∃ w, exec (.fdecb d sel) s = .next { s with status := 0x01, resp := .fault (.insufficientData w) })

/-- R185 (a): the frame decoded from a well-formed octet string encodes to that string. -/
def Obligations.WellFormedOctetsRoundTrip : Prop :=
  ∀ (rptMax : Nat) (b : List Byte) (m : Modulus), wellFormedOctets rptMax b m = true →
    ∃ r body u, decodeFrame rptMax b m = .ok (r, body, u) ∧ ∀ ts, frameBytes (r.frame body ts) = b

/-- R185 (b): the octets of a structurally valid frame decode, under the modulus its variant needs, to a frame
semantically equal to it. -/
def Obligations.ValidFramesRoundTrip : Prop :=
  ∀ (p : Params) (f : Frame) (m : Modulus), validFrame p f = true → Matches f.body m →
    ∃ r body u, decodeFrame p.rptMax (frameBytes f) m = .ok (r, body, u) ∧
      ∀ ts, semEq (r.frame body ts) f = true

/-- `FPARSE` (R172). -/
def Obligations.FparseWritesARawFrame : Prop :=
  ∀ (d : Nat) (s : State),
    commandCode (.fparse d) = some 0x20 ∧
    (s.slots.length ≤ d → exec (.fparse d) s = .next (stopped s (.refuse .badSlot))) ∧
    (∀ e, d < s.slots.length → parseRaw s.params.rptMax (s.memRead 0 s.ilen) = .error e →
      exec (.fparse d) s = .next (stopped s e)) ∧
    (∀ r, d < s.slots.length → parseRaw s.params.rptMax (s.memRead 0 s.ilen) = .ok r →
      exec (.fparse d) s = .next { s with
        slots := s.slots.set d (some ⟨r.dest, r.src, r.rpt, s.timeNow, none, .raw r.payload⟩)
        status := 0x10
        resp := .ok .unit
        timeDraws := s.timeDraws + 1 })

/-- `FDECB` (R181): parse, then promote, in one operation. -/
def Obligations.FdecbParsesThenPromotes : Prop :=
  ∀ (d : Nat) (sel : Option (BitVec 2)) (s : State),
    commandCode (.fdecb d sel) = some 0x21 ∧
    (s.slots.length ≤ d → exec (.fdecb d sel) s = .next (stopped s (.refuse .badSlot))) ∧
    (d < s.slots.length → sel = some 3 → exec (.fdecb d sel) s = .next (stopped s (.refuse .badModulus))) ∧
    (∀ m, d < s.slots.length → Selects sel m →
      (∀ e, parseRaw s.params.rptMax (s.memRead 0 s.ilen) = .error e →
        exec (.fdecb d sel) s = .next (stopped s e)) ∧
      (∀ r e, parseRaw s.params.rptMax (s.memRead 0 s.ilen) = .ok r → promote r.payload m = .error e →
        exec (.fdecb d sel) s = .next (stopped s e)) ∧
      (∀ r b ucf, parseRaw s.params.rptMax (s.memRead 0 s.ilen) = .ok r → promote r.payload m = .ok (b, ucf) →
        exec (.fdecb d sel) s = .next { s with
          slots := s.slots.set d (some ⟨r.dest, r.src, r.rpt, s.timeNow, none, b⟩)
          status := frameStatus b ucf
          resp := .ok .unit
          timeDraws := s.timeDraws + 1 }))

/-- `FDECF` (R182, R183): the raw frame of a slot promoted with its metadata, a typed frame copied as it is. -/
def Obligations.FdecfPromotesTheFrameOfASlot : Prop :=
  ∀ (d src : Nat) (sel : Option (BitVec 2)) (s : State),
    commandCode (.fdecf d src sel) = some 0x22 ∧
    (s.slots.length ≤ d ∨ s.slots.length ≤ src →
      exec (.fdecf d src sel) s = .next (stopped s (.refuse .badSlot))) ∧
    (d < s.slots.length → src < s.slots.length → sel = some 3 →
      exec (.fdecf d src sel) s = .next (stopped s (.refuse .badModulus))) ∧
    (∀ m, d < s.slots.length → Selects sel m → s.slots[src]? = some none →
      exec (.fdecf d src sel) s = .next (stopped s (.refuse .emptySlot))) ∧
    (∀ m f, d < s.slots.length → Selects sel m → s.slots[src]? = some (some f) →
      (∀ p e, f.body = .raw p → promote p m = .error e →
        exec (.fdecf d src sel) s = .next (stopped s e)) ∧
      (∀ p b ucf, f.body = .raw p → promote p m = .ok (b, ucf) →
        exec (.fdecf d src sel) s = .next { s with
          slots := s.slots.set d (some ⟨f.dest, f.src, f.rpt, f.ts, f.dl, b⟩)
          status := frameStatus b ucf
          resp := .ok .unit }) ∧
      ((∀ p, f.body ≠ .raw p) →
        exec (.fdecf d src sel) s = .next { s with
          slots := s.slots.set d (some f)
          status := frameStatus f.body false
          resp := .ok .unit }))

/-! ## Frame assembler -/

/-- `MKRAW` (R201, R200). -/
def Obligations.MkrawBuildsARawFrame : Prop :=
  ∀ (a : MkArgs) (s : State),
    commandCode (.mkraw a) = some 0x30 ∧
    (CommonOk s a → 1 ≤ s.ilen → Fits s a s.ilen →
      Builds (exec (.mkraw a) s) s a (.raw (s.memRead 0 s.ilen)))

/-- `MKUI` (R202, R200). -/
def Obligations.MkuiBuildsAnUnnumberedInformationFrame : Prop :=
  ∀ (a : MkArgs) (pf : Option Nat) (pid : Nat) (s : State),
    commandCode (.mkui a pf pid) = some 0x31 ∧
    (CommonOk s a → pf.getD 0 ≤ 1 → pid ≤ 255 → Fits s a (2 + s.ilen) →
      Builds (exec (.mkui a pf pid) s) s a
        (.ui (pf.getD 0 == 1) (BitVec.ofNat 8 pid) (s.memRead 0 s.ilen)))

/-- `MKI8` (R203) and `MKI16` (R204). -/
def Obligations.MkiBuildsInformationFrames : Prop :=
  ∀ (a : MkArgs) (ns nr : Nat) (pf : Option Nat) (pid : Nat) (s : State),
    commandCode (.mki8 a ns nr pf pid) = some 0x32 ∧
    commandCode (.mki16 a ns nr pf pid) = some 0x33 ∧
    (CommonOk s a → ns ≤ 7 → nr ≤ 7 → pf.getD 0 ≤ 1 → pid ≤ 255 → Fits s a (2 + s.ilen) →
      Builds (exec (.mki8 a ns nr pf pid) s) s a
        (.i8 (BitVec.ofNat 3 ns) (BitVec.ofNat 3 nr) (pf.getD 0 == 1) (BitVec.ofNat 8 pid)
          (s.memRead 0 s.ilen))) ∧
    (CommonOk s a → ns ≤ 127 → nr ≤ 127 → pf.getD 0 ≤ 1 → pid ≤ 255 → Fits s a (3 + s.ilen) →
      Builds (exec (.mki16 a ns nr pf pid) s) s a
        (.i16 (BitVec.ofNat 7 ns) (BitVec.ofNat 7 nr) (pf.getD 0 == 1) (BitVec.ofNat 8 pid)
          (s.memRead 0 s.ilen)))

/-- `MKRR8`, `MKRNR8`, `MKREJ8`, `MKSREJ8` (R205 to R208); `IBUF` is not read. -/
def Obligations.MkBuildsSupervisoryFramesModulo8 : Prop :=
  ∀ row ∈ ([(.rr, Instr.mkrr8, 0x34), (.rnr, Instr.mkrnr8, 0x35), (.rej, Instr.mkrej8, 0x36),
      (.srej, Instr.mksrej8, 0x37)] : List (Supervisory × (MkArgs → Nat → Option Nat → Instr) × Byte)),
    ∀ (a : MkArgs) (nr : Nat) (pf : Option Nat) (s : State),
      commandCode (row.2.1 a nr pf) = some row.2.2 ∧
      (CommonOk s a → nr ≤ 7 → pf.getD 0 ≤ 1 → Fits s a 1 →
        Builds (exec (row.2.1 a nr pf) s) s a (.s8 row.1 (BitVec.ofNat 3 nr) (pf.getD 0 == 1)))

/-- `MKRR16`, `MKRNR16`, `MKREJ16`, `MKSREJ16` (R209 to R212). -/
def Obligations.MkBuildsSupervisoryFramesModulo128 : Prop :=
  ∀ row ∈ ([(.rr, Instr.mkrr16, 0x38), (.rnr, Instr.mkrnr16, 0x39), (.rej, Instr.mkrej16, 0x3A),
      (.srej, Instr.mksrej16, 0x3B)] : List (Supervisory × (MkArgs → Nat → Option Nat → Instr) × Byte)),
    ∀ (a : MkArgs) (nr : Nat) (pf : Option Nat) (s : State),
      commandCode (row.2.1 a nr pf) = some row.2.2 ∧
      (CommonOk s a → nr ≤ 127 → pf.getD 0 ≤ 1 → Fits s a 2 →
        Builds (exec (row.2.1 a nr pf) s) s a (.s16 row.1 (BitVec.ofNat 7 nr) (pf.getD 0 == 1)))

/-- Where the constructors are refused, in the order of R267 (R200, R201 to R212, R265): bad slot; too many
repeaters; the fields, or the empty raw payload; too long. The range of `ts` and `dl` is the model's reading (log
entry 13). -/
def Obligations.ConstructorsAreRefusedInOrder : Prop :=
  ∀ (a : MkArgs) (ns nr : Nat) (pf : Option Nat) (pid : Nat) (s : State),
    (s.slots.length ≤ a.d →
      ∀ i ∈ constructors a ns nr pf pid, exec i s = .next (stopped s (.refuse .badSlot))) ∧
    (a.d < s.slots.length → Good a.dest → Good a.src → (∀ x ∈ a.rpt, Good x) → s.params.rptMax < a.rpt.length →
      ∀ i ∈ constructors a ns nr pf pid, exec i s = .next (stopped s (.refuse .tooManyRepeaters))) ∧
    (a.d < s.slots.length → Good a.dest → Good a.src → (∀ x ∈ a.rpt, Good x) →
      a.rpt.length ≤ s.params.rptMax →
      ((∃ v ∈ a.ts, 2 ^ s.params.tsW ≤ v) ∨ (∃ v ∈ a.dl, 2 ^ s.params.tsW ≤ v)) →
      ∀ i ∈ constructors a ns nr pf pid, exec i s = .next (stopped s (.refuse .fieldRange))) ∧
    (CommonOk s a →
      (s.ilen = 0 → exec (.mkraw a) s = .next (stopped s (.refuse .emptyRawPayload))) ∧
      (1 < pf.getD 0 ∨ 255 < pid →
        exec (.mkui a pf pid) s = .next (stopped s (.refuse .fieldRange))) ∧
      (7 < ns ∨ 7 < nr ∨ 1 < pf.getD 0 ∨ 255 < pid →
        exec (.mki8 a ns nr pf pid) s = .next (stopped s (.refuse .fieldRange))) ∧
      (127 < ns ∨ 127 < nr ∨ 1 < pf.getD 0 ∨ 255 < pid →
        exec (.mki16 a ns nr pf pid) s = .next (stopped s (.refuse .fieldRange))) ∧
      (7 < nr ∨ 1 < pf.getD 0 →
        ∀ i ∈ ([.mkrr8 a nr pf, .mkrnr8 a nr pf, .mkrej8 a nr pf, .mksrej8 a nr pf] : List Instr),
          exec i s = .next (stopped s (.refuse .fieldRange))) ∧
      (127 < nr ∨ 1 < pf.getD 0 →
        ∀ i ∈ ([.mkrr16 a nr pf, .mkrnr16 a nr pf, .mkrej16 a nr pf, .mksrej16 a nr pf] : List Instr),
          exec i s = .next (stopped s (.refuse .fieldRange))) ∧
      (1 ≤ s.ilen → ¬ Fits s a s.ilen → exec (.mkraw a) s = .next (stopped s (.refuse .tooLong))) ∧
      (pf.getD 0 ≤ 1 → pid ≤ 255 → ¬ Fits s a (2 + s.ilen) →
        exec (.mkui a pf pid) s = .next (stopped s (.refuse .tooLong))) ∧
      (ns ≤ 7 → nr ≤ 7 → pf.getD 0 ≤ 1 → pid ≤ 255 → ¬ Fits s a (2 + s.ilen) →
        exec (.mki8 a ns nr pf pid) s = .next (stopped s (.refuse .tooLong))) ∧
      (ns ≤ 127 → nr ≤ 127 → pf.getD 0 ≤ 1 → pid ≤ 255 → ¬ Fits s a (3 + s.ilen) →
        exec (.mki16 a ns nr pf pid) s = .next (stopped s (.refuse .tooLong))) ∧
      (nr ≤ 7 → pf.getD 0 ≤ 1 → ¬ Fits s a 1 →
        ∀ i ∈ ([.mkrr8 a nr pf, .mkrnr8 a nr pf, .mkrej8 a nr pf, .mksrej8 a nr pf] : List Instr),
          exec i s = .next (stopped s (.refuse .tooLong))) ∧
      (nr ≤ 127 → pf.getD 0 ≤ 1 → ¬ Fits s a 2 →
        ∀ i ∈ ([.mkrr16 a nr pf, .mkrnr16 a nr pf, .mkrej16 a nr pf, .mksrej16 a nr pf] : List Instr),
          exec i s = .next (stopped s (.refuse .tooLong))))

/-- The octets of a frame by variant (R95, R213, R214), each control octet written out bit by bit from R88, R90 and
R93. -/
def Obligations.FrameOctetsAreTheTablesOfTheSpec : Prop :=
  ∀ f : Frame, frameBytes f = addrEnc7 f.dest ++ addrEnc7 f.src ++ (f.rpt.map addrEnc7).flatten ++
    match f.body with
    | .raw payload => payload
    | .ui pf pid payload => (0b000#3 ++ BitVec.ofBool pf ++ 0b0011#4 : BitVec 8) :: pid :: payload
    | .i8 ns nr pf pid payload => (nr ++ BitVec.ofBool pf ++ ns ++ 0b0#1 : BitVec 8) :: pid :: payload
    | .i16 ns nr pf pid payload =>
      (ns ++ 0b0#1 : BitVec 8) :: (nr ++ BitVec.ofBool pf : BitVec 8) :: pid :: payload
    | .s8 .rr nr pf => [(nr ++ BitVec.ofBool pf ++ 0b0001#4 : BitVec 8)]
    | .s8 .rnr nr pf => [(nr ++ BitVec.ofBool pf ++ 0b0101#4 : BitVec 8)]
    | .s8 .rej nr pf => [(nr ++ BitVec.ofBool pf ++ 0b1001#4 : BitVec 8)]
    | .s8 .srej nr pf => [(nr ++ BitVec.ofBool pf ++ 0b1101#4 : BitVec 8)]
    | .s16 .rr nr pf => [0b00000001, (nr ++ BitVec.ofBool pf : BitVec 8)]
    | .s16 .rnr nr pf => [0b00000101, (nr ++ BitVec.ofBool pf : BitVec 8)]
    | .s16 .rej nr pf => [0b00001001, (nr ++ BitVec.ofBool pf : BitVec 8)]
    | .s16 .srej nr pf => [0b00001101, (nr ++ BitVec.ofBool pf : BitVec 8)]

/-- Encoding is total within `LEN_MAX` on structurally valid frames, and depends on `var`, the addresses and the body
only (R220; its remark on the converse is not stated, log entry 19). -/
def Obligations.EncodingFitsAndIgnoresMetadata : Prop :=
  (∀ (p : Params) (f : Frame), validFrame p f = true →
    (frameBytes f).length = 14 + 7 * f.rpt.length + (bodyBytes f.body).length ∧
      (frameBytes f).length ≤ p.lenMax) ∧
  (∀ f g : Frame, semEq f g = true → frameBytes f = frameBytes g)

/-- `FENC` (R215): the frame's octets in `OBUF`, the slot unchanged. -/
def Obligations.FencWritesTheFramesOctets : Prop :=
  ∀ (src : Nat) (s : State),
    commandCode (.fenc src) = some 0x40 ∧
    (s.slots.length ≤ src → exec (.fenc src) s = .next (stopped s (.refuse .badSlot))) ∧
    (s.slots[src]? = some none → exec (.fenc src) s = .next (stopped s (.refuse .emptySlot))) ∧
    (∀ f, s.slots[src]? = some (some f) → validFrame s.params f = true →
      Produces (exec (.fenc src) s) s (frameBytes f))

/-- `FCPY` (R216): every field, the metadata included. -/
def Obligations.FcpyCopiesEveryField : Prop :=
  ∀ (d src : Nat) (s : State),
    commandCode (.fcpy d src) = some 0x41 ∧
    (s.slots.length ≤ d ∨ s.slots.length ≤ src →
      exec (.fcpy d src) s = .next (stopped s (.refuse .badSlot))) ∧
    (d < s.slots.length → s.slots[src]? = some none →
      exec (.fcpy d src) s = .next (stopped s (.refuse .emptySlot))) ∧
    (∀ f, d < s.slots.length → s.slots[src]? = some (some f) →
      exec (.fcpy d src) s = .next { s with
        slots := s.slots.set d (some f)
        status := frameStatus f.body false
        resp := .ok .unit })

/-- `FSTR` (R217, R98): `SRC>DST`, at most 19 octets of text. That a text longer than `LEN_MAX` (possible only below 19)
is refused as too long is the model's reading of R56 (log entry 12). -/
def Obligations.FstrWritesSourceAndDestination : Prop :=
  ∀ (src : Nat) (s : State),
    commandCode (.fstr src) = some 0x42 ∧
    (s.slots.length ≤ src → exec (.fstr src) s = .next (stopped s (.refuse .badSlot))) ∧
    (s.slots[src]? = some none → exec (.fstr src) s = .next (stopped s (.refuse .emptySlot))) ∧
    (∀ f text, s.slots[src]? = some (some f) →
      text = addressText f.src.call f.src.ssid.toNat ++ [0x3E] ++ addressText f.dest.call f.dest.ssid.toNat →
      (validFrame s.params f = true → text.length ≤ 19) ∧
      (text.length ≤ s.params.lenMax → Produces (exec (.fstr src) s) s text) ∧
      (s.params.lenMax < text.length → exec (.fstr src) s = .next (stopped s (.refuse .tooLong))))

/-- `FGET` (R218): the record with its variant code and `cr`, or `EMPTY`. -/
def Obligations.FgetReturnsTheRecord : Prop :=
  ∀ (src : Nat) (s : State),
    commandCode (.fget src) = some 0x43 ∧
    (s.slots.length ≤ src → exec (.fget src) s = .next (stopped s (.refuse .badSlot))) ∧
    (s.slots[src]? = some none → exec (.fget src) s = .next { s with status := 0x00, resp := .ok (.frame none) }) ∧
    (∀ f, s.slots[src]? = some (some f) →
      exec (.fget src) s = .next { s with
        status := frameStatus f.body false
        resp := .ok (.frame (some ⟨variantCode (bodyVariant f.body), f.dest.ch, f⟩)) })

/-- `FFREE` (R219); an empty slot is freed too. -/
def Obligations.FfreeEmptiesTheSlot : Prop :=
  ∀ (d : Nat) (s : State),
    commandCode (.ffree d) = some 0x44 ∧
    (s.slots.length ≤ d → exec (.ffree d) s = .next (stopped s (.refuse .badSlot))) ∧
    (d < s.slots.length →
      exec (.ffree d) s = .next { s with slots := s.slots.set d none, status := 0x00, resp := .ok .unit })

/-! ## Frame metadata -/

/-- `GETTS` (R241). -/
def Obligations.GettsReturnsTheTimestamp : Prop :=
  ∀ (src : Nat) (s : State),
    commandCode (.getts src) = some 0x50 ∧
    (s.slots.length ≤ src → exec (.getts src) s = .next (stopped s (.refuse .badSlot))) ∧
    (s.slots[src]? = some none → exec (.getts src) s = .next (stopped s (.refuse .emptySlot))) ∧
    (∀ f, s.slots[src]? = some (some f) →
      exec (.getts src) s = .next { s with status := 0x00, resp := .ok (.timestamp f.ts) })

/-- `SETTS` (R242): any value of `TS_W` bits, nothing else changed. -/
def Obligations.SettsWritesTheTimestamp : Prop :=
  ∀ (src v : Nat) (s : State),
    commandCode (.setts src v) = some 0x51 ∧
    (s.slots.length ≤ src → exec (.setts src v) s = .next (stopped s (.refuse .badSlot))) ∧
    (s.slots[src]? = some none → exec (.setts src v) s = .next (stopped s (.refuse .emptySlot))) ∧
    (∀ f, s.slots[src]? = some (some f) →
      (2 ^ s.params.tsW ≤ v → exec (.setts src v) s = .next (stopped s (.refuse .fieldRange))) ∧
      (v < 2 ^ s.params.tsW →
        exec (.setts src v) s = .next { s with
          slots := s.slots.set src (some ⟨f.dest, f.src, f.rpt, v, f.dl, f.body⟩)
          status := 0x00
          resp := .ok .unit }))

/-- `GETDL` (R243): `none` is no error. -/
def Obligations.GetdlReturnsTheDeadline : Prop :=
  ∀ (src : Nat) (s : State),
    commandCode (.getdl src) = some 0x52 ∧
    (s.slots.length ≤ src → exec (.getdl src) s = .next (stopped s (.refuse .badSlot))) ∧
    (s.slots[src]? = some none → exec (.getdl src) s = .next (stopped s (.refuse .emptySlot))) ∧
    (∀ f, s.slots[src]? = some (some f) →
      exec (.getdl src) s = .next { s with status := 0x00, resp := .ok (.deadline f.dl) })

/-- `SETDL` (R244): the one write, or `DeadlineImmutable` even for the same value. -/
def Obligations.SetdlWritesTheDeadlineOnce : Prop :=
  ∀ (src v : Nat) (s : State),
    commandCode (.setdl src v) = some 0x53 ∧
    (s.slots.length ≤ src → exec (.setdl src v) s = .next (stopped s (.refuse .badSlot))) ∧
    (s.slots[src]? = some none → exec (.setdl src v) s = .next (stopped s (.refuse .emptySlot))) ∧
    (∀ f, s.slots[src]? = some (some f) →
      (2 ^ s.params.tsW ≤ v → exec (.setdl src v) s = .next (stopped s (.refuse .fieldRange))) ∧
      (v < 2 ^ s.params.tsW → f.dl ≠ none →
        exec (.setdl src v) s = .next (stopped s (.raise .deadlineImmutable))) ∧
      (v < 2 ^ s.params.tsW → f.dl = none →
        exec (.setdl src v) s = .next { s with
          slots := s.slots.set src (some ⟨f.dest, f.src, f.rpt, f.ts, some v, f.body⟩)
          status := 0x00
          resp := .ok .unit }))

/-- The write-once law over any sequence of operations (R245): a set deadline stays, with the whole frame but its
timestamp, as long as no operation replaces the slot; and an unset one stays unset or becomes set. -/
def Obligations.ASetDeadlineNeverChanges : Prop :=
  ∀ (is : List Instr) (s t : State) (j : Nat) (f : Frame),
    perform is s = .next t → s.slots[j]? = some (some f) → (∀ i ∈ is, replacedSlot i ≠ some j) →
    ∃ g, t.slots[j]? = some (some g) ∧ g = { f with ts := g.ts, dl := g.dl } ∧
      (∀ v, f.dl = some v → g.dl = some v)

/-! ## The whole machine -/

/-- Every operation ends in exactly one outcome (R5, R260, R266): `ok` with `ERR = 0`, or a fault or refusal that
changes `STATUS` and the response alone. No operation stops the machine. -/
def Obligations.EveryOperationEndsInOneOutcome : Prop :=
  ∀ (i : Instr) (s : State), ∃ t, exec i s = .next t ∧
    ((∃ r, t.resp = .ok r ∧ t.status.extractLsb' 0 3 = 0) ∨ ∃ e, t = stopped s e)

/-- What no operation writes, and what only four do (R30, R50, R299): `IBUF`, `ILEN`, the parameters and the host's
side are never written; `OBUF` and `OLEN` only by `AENC`, `ASTR`, `FENC`, `FSTR`. -/
def Obligations.BuffersAreWrittenOnlyByTheirWriters : Prop :=
  ∀ (i : Instr) (s t : State), exec i s = .next t →
    t.ibuf = s.ibuf ∧ t.ilen = s.ilen ∧ t.params = s.params ∧ t.time = s.time ∧ t.inbox = s.inbox ∧
    (∀ a, t.ibufOctet a = s.ibufOctet a) ∧
    (producesOctets i = false → t.olen = s.olen ∧ ∀ a, Memory.get t.obuf a = Memory.get s.obuf a)

/-- A slot changes in four ways only (R35): a frame-producing operation, `SETTS`, `SETDL` on an unset deadline,
`FFREE`; a fault or a refusal changes none. -/
def Obligations.SlotsChangeInFourWaysOnly : Prop :=
  ∀ (i : Instr) (s t : State), exec i s = .next t →
    ((∀ r, t.resp ≠ .ok r) → t.slots = s.slots) ∧
    (t.slots = s.slots ∨
      (∃ d f, replacedSlot i = some d ∧ (∀ d', i ≠ .ffree d') ∧ t.slots = s.slots.set d (some f)) ∨
      (∃ d, i = .ffree d ∧ t.slots = s.slots.set d none) ∨
      (∃ src v f, i = .setts src v ∧ s.slots[src]? = some (some f) ∧
        t.slots = s.slots.set src (some { f with ts := v })) ∨
      (∃ src v f, i = .setdl src v ∧ s.slots[src]? = some (some f) ∧ f.dl = none ∧
        t.slots = s.slots.set src (some { f with dl := some v })))

/-- `UCF` (R264, R29): set only together with `ok`, by `FDECB` or `FDECF` whose result is the raw frame (`VAR = 1`,
the slot written), or by `CCLS` that reports `unrecognised`; for bare fields, by those no format claims (log
entry 2). -/
def Obligations.UcfMarksUnclaimedControlFieldsOnly : Prop :=
  ∀ (i : Instr) (s t : State), exec i s = .next t → t.status.getLsbD 3 = true →
    (∃ d sel f p, (i = .fdecb d sel ∨ ∃ src, i = .fdecf d src sel) ∧ t.status = 0x18 ∧ t.resp = .ok .unit ∧
      t.slots[d]? = some (some f) ∧ f.body = .raw p) ∨
    (∃ c, t.status = 0x08 ∧ t.resp = .ok (.classified c .unrecognised) ∧
      ((∃ off sel, i = .ccls off sel) ∨ ∃ c0, i = .uother c0)) ∨
    (∃ m p, i = .raw m p ∧ t.status = 0x08 ∧ t.resp = .ok (.promoted (.raw p)))

/-- `TIME` reaches the block only as the default of a `ts` (R32, R246, R247): of two runs that differ in what `TIME`
carries, an operation that samples none gives the same outcome; one that samples it gives the same fault or refusal,
or the same `ok` up to the `ts` of the frame it writes, which is the sample. The sampling fields `time` and
`timeDraws` are the model's own (log entry 8), as is that only an `ok` counts a sample (log entry 18). -/
def Obligations.TimeIsReadOnlyToDefaultATimestamp : Prop :=
  ∀ (i : Instr) (s s' t : State) (v : Option Nat) (n : Nat), s' = { s with time := v, timeDraws := n } →
    exec i s = .next t →
    (¬ samplesTime i → t.timeDraws = s.timeDraws ∧ exec i s' = .next { t with time := v, timeDraws := n }) ∧
    (samplesTime i →
      (∃ e, t = stopped s e ∧ exec i s' = .next (stopped s' e)) ∨
      (∃ d f, replacedSlot i = some d ∧ d < s.slots.length ∧ f.ts = s.timeNow ∧
        t.slots = s.slots.set d (some f) ∧ t.timeDraws = s.timeDraws + 1 ∧
        exec i s' = .next { t with
          slots := s.slots.set d (some { f with ts := s'.timeNow })
          time := v
          timeDraws := n + 1 }))

/-- The invariant: slots hold structurally valid frames (R26), `STATUS` a legal value (R29), the lengths and buffers
stay inside `LEN_MAX`, and `OBUF` holds exactly `OLEN` octets (R56; that nothing stands beyond them is the model's
form of U1, log entry 10). Every step keeps it, whatever the host's next
act is. -/
def Obligations.EveryStepKeepsTheInvariant : Prop :=
  ∀ s t : State, s.Inv → step s = .next t → t.Inv

/-- The reset state meets the invariant (its parameters are the suggested defaults, log entry 7). -/
def Obligations.ResetMeetsTheInvariant : Prop := State.reset.Inv

/-- Reset (R34, R290): every slot `EMPTY`, `STATUS`, `OLEN`, `ILEN` 0, no octet of `IBUF` or `OBUF` holding a value;
and the host's reset act leads there from any state. The values of `resp`, `time`, `timeDraws`, `inbox` and the
parameters are the model's (log entries 4, 6, 7, 8, 17). -/
def Obligations.ResetLeavesTheSpecsState : Prop :=
  (∀ v ∈ State.reset.slots, v = none) ∧ State.reset.status = 0x00 ∧ State.reset.olen = 0 ∧ State.reset.ilen = 0 ∧
  (∀ a, Memory.get State.reset.ibuf a = none ∧ Memory.get State.reset.obuf a = none) ∧
  (∀ (s : State) (rest : List HostEvent), s.inbox = .reset :: rest →
    ∃ t, step s = .next t ∧ t.slots.length = s.slots.length ∧ (∀ v ∈ t.slots, v = none) ∧ t.status = 0x00 ∧
      t.olen = 0 ∧ t.ilen = 0 ∧ (∀ a, Memory.get t.ibuf a = none ∧ Memory.get t.obuf a = none) ∧
      t.params = s.params ∧ t.inbox = rest ∧ t.time = s.time ∧ t.timeDraws = s.timeDraws)
end

