-- ==== Sys2Proof/Laws/State.lean ====
section
/-! SUPPORT. What each named update of State does to each field: one lemma per field per update. -/

namespace Sys2Proof.Machine

/-! ## `State.setSlot` -/

@[simp] theorem State.setSlot_params (s : State) (i : Nat) (v : Option Frame) : (s.setSlot i v).params = s.params := rfl
@[simp] theorem State.setSlot_slots (s : State) (i : Nat) (v : Option Frame) : (s.setSlot i v).slots = s.slots.set i v := rfl
@[simp] theorem State.setSlot_status (s : State) (i : Nat) (v : Option Frame) : (s.setSlot i v).status = s.status := rfl
@[simp] theorem State.setSlot_ibuf (s : State) (i : Nat) (v : Option Frame) : (s.setSlot i v).ibuf = s.ibuf := rfl
@[simp] theorem State.setSlot_ilen (s : State) (i : Nat) (v : Option Frame) : (s.setSlot i v).ilen = s.ilen := rfl
@[simp] theorem State.setSlot_obuf (s : State) (i : Nat) (v : Option Frame) : (s.setSlot i v).obuf = s.obuf := rfl
@[simp] theorem State.setSlot_olen (s : State) (i : Nat) (v : Option Frame) : (s.setSlot i v).olen = s.olen := rfl
@[simp] theorem State.setSlot_resp (s : State) (i : Nat) (v : Option Frame) : (s.setSlot i v).resp = s.resp := rfl
@[simp] theorem State.setSlot_time (s : State) (i : Nat) (v : Option Frame) : (s.setSlot i v).time = s.time := rfl
@[simp] theorem State.setSlot_timeDraws (s : State) (i : Nat) (v : Option Frame) : (s.setSlot i v).timeDraws = s.timeDraws := rfl
@[simp] theorem State.setSlot_inbox (s : State) (i : Nat) (v : Option Frame) : (s.setSlot i v).inbox = s.inbox := rfl

/-! ## `State.timeTaken` -/

@[simp] theorem State.timeTaken_params (s : State) : (s.timeTaken).params = s.params := rfl
@[simp] theorem State.timeTaken_slots (s : State) : (s.timeTaken).slots = s.slots := rfl
@[simp] theorem State.timeTaken_status (s : State) : (s.timeTaken).status = s.status := rfl
@[simp] theorem State.timeTaken_ibuf (s : State) : (s.timeTaken).ibuf = s.ibuf := rfl
@[simp] theorem State.timeTaken_ilen (s : State) : (s.timeTaken).ilen = s.ilen := rfl
@[simp] theorem State.timeTaken_obuf (s : State) : (s.timeTaken).obuf = s.obuf := rfl
@[simp] theorem State.timeTaken_olen (s : State) : (s.timeTaken).olen = s.olen := rfl
@[simp] theorem State.timeTaken_resp (s : State) : (s.timeTaken).resp = s.resp := rfl
@[simp] theorem State.timeTaken_time (s : State) : (s.timeTaken).time = s.time := rfl
@[simp] theorem State.timeTaken_timeDraws (s : State) : (s.timeTaken).timeDraws = s.timeDraws + 1 := rfl
@[simp] theorem State.timeTaken_inbox (s : State) : (s.timeTaken).inbox = s.inbox := rfl

/-! ## `State.answer` -/

@[simp] theorem State.answer_params (s : State) (u : Bool) (c : BitVec 4) (r : Result) : (s.answer u c r).params = s.params := rfl
@[simp] theorem State.answer_slots (s : State) (u : Bool) (c : BitVec 4) (r : Result) : (s.answer u c r).slots = s.slots := rfl
@[simp] theorem State.answer_status (s : State) (u : Bool) (c : BitVec 4) (r : Result) : (s.answer u c r).status = okStatus u c := rfl
@[simp] theorem State.answer_ibuf (s : State) (u : Bool) (c : BitVec 4) (r : Result) : (s.answer u c r).ibuf = s.ibuf := rfl
@[simp] theorem State.answer_ilen (s : State) (u : Bool) (c : BitVec 4) (r : Result) : (s.answer u c r).ilen = s.ilen := rfl
@[simp] theorem State.answer_obuf (s : State) (u : Bool) (c : BitVec 4) (r : Result) : (s.answer u c r).obuf = s.obuf := rfl
@[simp] theorem State.answer_olen (s : State) (u : Bool) (c : BitVec 4) (r : Result) : (s.answer u c r).olen = s.olen := rfl
@[simp] theorem State.answer_resp (s : State) (u : Bool) (c : BitVec 4) (r : Result) : (s.answer u c r).resp = .ok r := rfl
@[simp] theorem State.answer_time (s : State) (u : Bool) (c : BitVec 4) (r : Result) : (s.answer u c r).time = s.time := rfl
@[simp] theorem State.answer_timeDraws (s : State) (u : Bool) (c : BitVec 4) (r : Result) : (s.answer u c r).timeDraws = s.timeDraws := rfl
@[simp] theorem State.answer_inbox (s : State) (u : Bool) (c : BitVec 4) (r : Result) : (s.answer u c r).inbox = s.inbox := rfl

/-! ## `State.stop` -/

@[simp] theorem State.stop_params (s : State) (e : Stop) : (s.stop e).params = s.params := rfl
@[simp] theorem State.stop_slots (s : State) (e : Stop) : (s.stop e).slots = s.slots := rfl
@[simp] theorem State.stop_status (s : State) (e : Stop) : (s.stop e).status = stopStatus e := rfl
@[simp] theorem State.stop_ibuf (s : State) (e : Stop) : (s.stop e).ibuf = s.ibuf := rfl
@[simp] theorem State.stop_ilen (s : State) (e : Stop) : (s.stop e).ilen = s.ilen := rfl
@[simp] theorem State.stop_obuf (s : State) (e : Stop) : (s.stop e).obuf = s.obuf := rfl
@[simp] theorem State.stop_olen (s : State) (e : Stop) : (s.stop e).olen = s.olen := rfl
@[simp] theorem State.stop_resp (s : State) (e : Stop) : (s.stop e).resp = stopResponse e := rfl
@[simp] theorem State.stop_time (s : State) (e : Stop) : (s.stop e).time = s.time := rfl
@[simp] theorem State.stop_timeDraws (s : State) (e : Stop) : (s.stop e).timeDraws = s.timeDraws := rfl
@[simp] theorem State.stop_inbox (s : State) (e : Stop) : (s.stop e).inbox = s.inbox := rfl

/-! ## `State.emit` -/

@[simp] theorem State.emit_params (s : State) (r : List Byte) : (s.emit r).params = s.params := rfl
@[simp] theorem State.emit_slots (s : State) (r : List Byte) : (s.emit r).slots = s.slots := rfl
@[simp] theorem State.emit_status (s : State) (r : List Byte) : (s.emit r).status = s.status := rfl
@[simp] theorem State.emit_ibuf (s : State) (r : List Byte) : (s.emit r).ibuf = s.ibuf := rfl
@[simp] theorem State.emit_ilen (s : State) (r : List Byte) : (s.emit r).ilen = s.ilen := rfl
@[simp] theorem State.emit_obuf (s : State) (r : List Byte) : (s.emit r).obuf = Memory.ofOctets 0 r := rfl
@[simp] theorem State.emit_olen (s : State) (r : List Byte) : (s.emit r).olen = r.length := rfl
@[simp] theorem State.emit_resp (s : State) (r : List Byte) : (s.emit r).resp = s.resp := rfl
@[simp] theorem State.emit_time (s : State) (r : List Byte) : (s.emit r).time = s.time := rfl
@[simp] theorem State.emit_timeDraws (s : State) (r : List Byte) : (s.emit r).timeDraws = s.timeDraws := rfl
@[simp] theorem State.emit_inbox (s : State) (r : List Byte) : (s.emit r).inbox = s.inbox := rfl

/-! ## `State.deliver` -/

@[simp] theorem State.deliver_params (s : State) (d : Nat) (f : Frame) (u : Bool) : (s.deliver d f u).params = s.params := rfl
@[simp] theorem State.deliver_slots (s : State) (d : Nat) (f : Frame) (u : Bool) : (s.deliver d f u).slots = s.slots.set d (some f) := rfl
@[simp] theorem State.deliver_status (s : State) (d : Nat) (f : Frame) (u : Bool) : (s.deliver d f u).status = okStatus u (frameCode f) := rfl
@[simp] theorem State.deliver_ibuf (s : State) (d : Nat) (f : Frame) (u : Bool) : (s.deliver d f u).ibuf = s.ibuf := rfl
@[simp] theorem State.deliver_ilen (s : State) (d : Nat) (f : Frame) (u : Bool) : (s.deliver d f u).ilen = s.ilen := rfl
@[simp] theorem State.deliver_obuf (s : State) (d : Nat) (f : Frame) (u : Bool) : (s.deliver d f u).obuf = s.obuf := rfl
@[simp] theorem State.deliver_olen (s : State) (d : Nat) (f : Frame) (u : Bool) : (s.deliver d f u).olen = s.olen := rfl
@[simp] theorem State.deliver_resp (s : State) (d : Nat) (f : Frame) (u : Bool) : (s.deliver d f u).resp = .ok .unit := rfl
@[simp] theorem State.deliver_time (s : State) (d : Nat) (f : Frame) (u : Bool) : (s.deliver d f u).time = s.time := rfl
@[simp] theorem State.deliver_timeDraws (s : State) (d : Nat) (f : Frame) (u : Bool) : (s.deliver d f u).timeDraws = s.timeDraws := rfl
@[simp] theorem State.deliver_inbox (s : State) (d : Nat) (f : Frame) (u : Bool) : (s.deliver d f u).inbox = s.inbox := rfl

/-! ## `offerEvent`: only `inbox` changes -/

@[simp] theorem offerEvent_params (s : State) (ev : HostEvent) : (offerEvent s ev).params = s.params := rfl
@[simp] theorem offerEvent_slots (s : State) (ev : HostEvent) : (offerEvent s ev).slots = s.slots := rfl
@[simp] theorem offerEvent_status (s : State) (ev : HostEvent) : (offerEvent s ev).status = s.status := rfl
@[simp] theorem offerEvent_ibuf (s : State) (ev : HostEvent) : (offerEvent s ev).ibuf = s.ibuf := rfl
@[simp] theorem offerEvent_ilen (s : State) (ev : HostEvent) : (offerEvent s ev).ilen = s.ilen := rfl
@[simp] theorem offerEvent_obuf (s : State) (ev : HostEvent) : (offerEvent s ev).obuf = s.obuf := rfl
@[simp] theorem offerEvent_olen (s : State) (ev : HostEvent) : (offerEvent s ev).olen = s.olen := rfl
@[simp] theorem offerEvent_resp (s : State) (ev : HostEvent) : (offerEvent s ev).resp = s.resp := rfl
@[simp] theorem offerEvent_time (s : State) (ev : HostEvent) : (offerEvent s ev).time = s.time := rfl
@[simp] theorem offerEvent_timeDraws (s : State) (ev : HostEvent) : (offerEvent s ev).timeDraws = s.timeDraws := rfl
@[simp] theorem offerEvent_inbox (s : State) (ev : HostEvent) : (offerEvent s ev).inbox = ev :: s.inbox := rfl

/-! ## `sampled`: only `timeDraws` can change -/

@[simp] theorem sampled_params (s : State) (a : MkArgs) : (sampled s a).params = s.params := by
  cases h : a.ts <;> simp [sampled, h]
@[simp] theorem sampled_slots (s : State) (a : MkArgs) : (sampled s a).slots = s.slots := by
  cases h : a.ts <;> simp [sampled, h]
@[simp] theorem sampled_status (s : State) (a : MkArgs) : (sampled s a).status = s.status := by
  cases h : a.ts <;> simp [sampled, h]
@[simp] theorem sampled_ibuf (s : State) (a : MkArgs) : (sampled s a).ibuf = s.ibuf := by
  cases h : a.ts <;> simp [sampled, h]
@[simp] theorem sampled_ilen (s : State) (a : MkArgs) : (sampled s a).ilen = s.ilen := by
  cases h : a.ts <;> simp [sampled, h]
@[simp] theorem sampled_obuf (s : State) (a : MkArgs) : (sampled s a).obuf = s.obuf := by
  cases h : a.ts <;> simp [sampled, h]
@[simp] theorem sampled_olen (s : State) (a : MkArgs) : (sampled s a).olen = s.olen := by
  cases h : a.ts <;> simp [sampled, h]
@[simp] theorem sampled_resp (s : State) (a : MkArgs) : (sampled s a).resp = s.resp := by
  cases h : a.ts <;> simp [sampled, h]
@[simp] theorem sampled_time (s : State) (a : MkArgs) : (sampled s a).time = s.time := by
  cases h : a.ts <;> simp [sampled, h]
theorem sampled_timeDraws (s : State) (a : MkArgs) :
    (sampled s a).timeDraws = s.timeDraws + (if a.ts.isNone then 1 else 0) := by
  cases h : a.ts <;> simp [sampled, h]
@[simp] theorem sampled_inbox (s : State) (a : MkArgs) : (sampled s a).inbox = s.inbox := by
  cases h : a.ts <;> simp [sampled, h]

/-- The number of slots is the same after every update of a slot. -/
@[simp] theorem State.nslot_setSlot (s : State) (i : Nat) (v : Option Frame) : (s.setSlot i v).nslot = s.nslot := by
  simp [State.nslot]

end Sys2Proof.Machine
end

