-- ==== Sys2Proof/Laws/Ops.lean ====
section
/-! SUPPORT. One lemma for each shared operation and operand form, saying once everything it can do; the meanings'
proofs cite these instead of unfolding. -/

namespace Sys2Proof.Machine

/-! ## Sequencing -/

@[simp] theorem bind_ok {α β : Type} (a : α) (f : α → Except Stop β) : (Except.ok a >>= f) = f a := rfl

@[simp] theorem bind_error {α β : Type} (e : Stop) (f : α → Except Stop β) :
    ((Except.error e : Except Stop α) >>= f) = .error e := rfl

/-- A computation ends `ok` exactly when its first part does and the rest does from there. -/
theorem bind_eq_ok {α β : Type} (x : Except Stop α) (f : α → Except Stop β) (b : β) :
    (x >>= f) = .ok b ↔ ∃ a, x = .ok a ∧ f a = .ok b := by
  cases x <;> simp

/-- A computation stops exactly when its first part does, or the rest does from there. -/
theorem bind_eq_error {α β : Type} (x : Except Stop α) (f : α → Except Stop β) (e : Stop) :
    (x >>= f) = .error e ↔ x = .error e ∨ ∃ a, x = .ok a ∧ f a = .error e := by
  cases x <;> simp

/-! ## Ends of an operation -/

@[simp] theorem conclude_ok (s t : State) : conclude s (.ok t) = .next t := rfl

@[simp] theorem conclude_error (s : State) (e : Stop) : conclude s (.error e) = .next (s.stop e) := rfl

/-- An operation always ends in a next state of the block: its own effect, or the stop. -/
theorem conclude_eq_next (s : State) (r : Except Stop State) (t : State) :
    conclude s r = .next t ↔ r = .ok t ∨ ∃ e, r = .error e ∧ t = s.stop e := by
  cases r <;> simp [eq_comm]

/-! ## Checks -/

@[simp] theorem refuseIf_eq_ok (c : Prop) [Decidable c] (r : RefuseReason) (u : Unit) :
    refuseIf c r = .ok u ↔ ¬ c := by
  by_cases h : c <;> simp [refuseIf, h]

@[simp] theorem refuseIf_eq_error (c : Prop) [Decidable c] (r : RefuseReason) (e : Stop) :
    refuseIf c r = .error e ↔ c ∧ e = .refuse r := by
  by_cases h : c <;> simp [refuseIf, h, eq_comm]

@[simp] theorem raiseIf_eq_ok (c : Prop) [Decidable c] (f : CodecFault) (u : Unit) :
    raiseIf c f = .ok u ↔ ¬ c := by
  by_cases h : c <;> simp [raiseIf, h]

@[simp] theorem raiseIf_eq_error (c : Prop) [Decidable c] (f : CodecFault) (e : Stop) :
    raiseIf c f = .error e ↔ c ∧ e = .raise f := by
  by_cases h : c <;> simp [raiseIf, h, eq_comm]

/-! ## Operand forms -/

@[simp] theorem checkSlot_eq_ok (s : State) (i : Nat) (u : Unit) : checkSlot s i = .ok u ↔ i < s.nslot := by
  simp [checkSlot]

/-- A source slot gives its frame exactly when it is a slot and holds one. -/
theorem fullSlot_eq_ok (s : State) (i : Nat) (f : Frame) : fullSlot s i = .ok f ↔ s.slots[i]? = some (some f) := by
  unfold fullSlot State.slot State.nslot
  by_cases h : s.slots.length ≤ i
  · simp [h]
  · have hi : i < s.slots.length := by omega
    cases hf : s.slots[i] <;> simp [h, hi, hf, List.getD]

theorem asAddress_eq_ok (a : AddrOperand) (x : Address) :
    asAddress a = .ok x ↔
      validCall a.call = true ∧ a.ssid ≤ 15 ∧ x = ⟨a.call, BitVec.ofNat 4 a.ssid, a.ch, a.rsv, a.ext⟩ := by
  unfold asAddress
  by_cases h1 : validCall a.call = true
  · by_cases h2 : a.ssid ≤ 15
    · simp only [h1, h2, decide_true, Bool.and_self, if_true, Except.ok.injEq, true_and]
      exact eq_comm
    · simp [h2]
  · simp [h1]

theorem asAddress_valid (a : AddrOperand) (x : Address) (h : asAddress a = .ok x) : x.valid = true := by
  obtain ⟨hc, -, rfl⟩ := (asAddress_eq_ok a x).1 h
  exact hc

/-- A list of Address operands gives as many Addresses, all valid. -/
theorem asAddresses_valid (as : List AddrOperand) : ∀ xs, asAddresses as = .ok xs →
    xs.length = as.length ∧ xs.all Address.valid = true := by
  induction as with
  | nil => rintro xs ⟨⟩; simp
  | cons a as ih =>
    intro xs h
    unfold asAddresses at h
    cases ha : asAddress a with
    | error e => simp [ha] at h
    | ok x =>
      cases hs : asAddresses as with
      | error e => simp [ha, hs] at h
      | ok ys =>
        simp only [ha, hs, Except.ok.injEq] at h
        subst h
        obtain ⟨hl, hv⟩ := ih ys hs
        simp [hl, hv, asAddress_valid a x ha]

theorem asBits_eq_ok (n v : Nat) (b : BitVec n) : asBits n v = .ok b ↔ v < 2 ^ n ∧ b = BitVec.ofNat n v := by
  by_cases h : 2 ^ n ≤ v
  · simp [asBits, h, Nat.not_lt.2 h]
  · simp [asBits, h, Nat.not_le.1 h, eq_comm]

theorem asPf_eq_ok (pf : Option Nat) (b : Bool) : asPf pf = .ok b ↔ pf.getD 0 ≤ 1 ∧ b = (pf.getD 0 == 1) := by
  cases pf with
  | none => simp [asPf, eq_comm]
  | some v =>
    by_cases h : 1 < v
    · simp [asPf, h]
    · simp [asPf, h, eq_comm]; omega

@[simp] theorem checkTime_eq_ok (s : State) (v : Nat) (u : Unit) : checkTime s v = .ok u ↔ v < 2 ^ s.params.tsW := by
  simp [checkTime]

@[simp] theorem checkTimeOpt_eq_ok (s : State) (v : Option Nat) (u : Unit) :
    checkTimeOpt s v = .ok u ↔ ∀ x ∈ v, x < 2 ^ s.params.tsW := by
  cases v <;> simp [checkTimeOpt]

/-- The selector's four cases. -/
theorem asModulus_eq_ok (m : Option (BitVec 2)) (x : Modulus) :
    asModulus m = .ok x ↔
      (x = .nomod ∧ (m = none ∨ m = some 0)) ∨ (x = .m8 ∧ m = some 1) ∨ (x = .m128 ∧ m = some 2) := by
  cases m with
  | none => cases x <;> simp [asModulus]
  | some v => revert v; cases x <;> decide

theorem produce_eq_ok (s t : State) (r : List Byte) :
    s.produce r = .ok t ↔ r.length ≤ s.params.lenMax ∧ t = (s.emit r).answer false 0 .unit := by
  by_cases h : s.params.lenMax < r.length
  · simp [State.produce, h, Nat.not_le.2 h]
  · simp [State.produce, h, Nat.not_lt.1 h, eq_comm]

/-- A level the host holds is what `TIME` reads, in `TS_W` bits. -/
theorem timeNow_held (s : State) (v : Nat) (h : s.time = some v) : s.timeNow = v % 2 ^ s.params.tsW := by
  simp [State.timeNow, h]

/-- `TIME` never reads wider than `TS_W` bits. -/
theorem timeNow_lt (s : State) : s.timeNow < 2 ^ s.params.tsW :=
  Nat.mod_lt _ (Nat.two_pow_pos _)

/-! ## The constructors -/

/-- Everything `mk_common` can do: the frame of R200 delivered, or the stop. -/
theorem make_cases (a : MkArgs) (body : Except Stop Body) (s t : State) (h : make a body s = .next t) :
    (∃ dest src rpt b, a.d < s.nslot ∧ asAddress a.dest = .ok dest ∧ asAddress a.src = .ok src ∧
      asAddresses a.rpt = .ok rpt ∧ a.rpt.length ≤ s.params.rptMax ∧
      (∀ x ∈ a.ts, x < 2 ^ s.params.tsW) ∧ (∀ x ∈ a.dl, x < 2 ^ s.params.tsW) ∧ body = .ok b ∧
      14 + 7 * a.rpt.length + (bodyBytes b).length ≤ s.params.lenMax ∧
      t = (sampled s a).deliver a.d (assemble s a dest src rpt b) false) ∨
    ∃ e, t = s.stop e := by
  rcases (conclude_eq_next s _ t).1 h with hr | ⟨e, -, rfl⟩
  · simp only [bind_eq_ok, checkSlot_eq_ok, refuseIf_eq_ok, checkTimeOpt_eq_ok, Except.ok.injEq, not_lt] at hr
    obtain ⟨-, h1, dest, h2, src, h3, rpt, h4, -, h5, -, h6, -, h7, b, h8, -, h9, h10⟩ := hr
    exact .inl ⟨dest, src, rpt, b, h1, h2, h3, h4, h5, h6, h7, h8, h9, h10.symm⟩
  · exact .inr ⟨e, rfl⟩

/-- When `mk_common` ends `ok`. -/
theorem make_ok (a : MkArgs) (s : State) (dest src : Address) (rpt : List Address) (b : Body)
    (h1 : a.d < s.nslot) (h2 : asAddress a.dest = .ok dest) (h3 : asAddress a.src = .ok src)
    (h4 : asAddresses a.rpt = .ok rpt) (h5 : a.rpt.length ≤ s.params.rptMax)
    (h6 : ∀ x ∈ a.ts, x < 2 ^ s.params.tsW) (h7 : ∀ x ∈ a.dl, x < 2 ^ s.params.tsW)
    (h9 : 14 + 7 * a.rpt.length + (bodyBytes b).length ≤ s.params.lenMax) :
    make a (.ok b) s = .next ((sampled s a).deliver a.d (assemble s a dest src rpt b) false) := by
  refine (conclude_eq_next s _ _).2 (.inl ?_)
  simp only [bind_eq_ok, checkSlot_eq_ok, refuseIf_eq_ok, checkTimeOpt_eq_ok, Except.ok.injEq, not_lt]
  exact ⟨(), h1, dest, h2, src, h3, rpt, h4, (), h5, (), h6, (), h7, b, rfl, (), h9, rfl⟩

end Sys2Proof.Machine
end

