-- ==== Sys2Proof/Laws/Exec.lean ====
section
/-! SUPPORT. What an instruction can do to the state, said once for all instructions. -/

namespace Sys2Proof.Machine

/-- The classifier on given octets ends `ok` only by answering. -/
theorem classify_eq_ok (s t : State) (m : Modulus) (p : List Byte) :
    classify s m p = .ok t ↔ ∃ dec, ctlDec p m = .ok dec ∧
      t = s.answer (decide (dec = .unrecognised)) 0 (.classified (classOf (octet p 0)) dec) := by
  simp only [classify, bind_eq_ok, Except.ok.injEq]
  exact exists_congr fun _ => and_congr_right fun _ => eq_comm

/-- An input that decodes to no instruction ends as a stop of the block. -/
@[simp] theorem answerUndecodable_eq (e : DecodeError) (s : State) :
    answerUndecodable e s = .next (s.stop (undecodableStop e)) := rfl

theorem sampled_eq (s : State) (a : MkArgs) : sampled s a = s ∨ sampled s a = s.timeTaken := by
  cases h : a.ts <;> simp [sampled, h]

/-- Every instruction ends in a next state, and in one of seven ways: a fault or a refusal; an answer alone; octets
produced; a frame delivered, with or without a sample of `TIME`; a slot freed; a timestamp written; a deadline set. -/
theorem exec_cases (i : Instr) (s : State) : ∃ t, exec i s = .next t ∧
    ((∃ e, t = s.stop e) ∨
     (∃ u c r, t = s.answer u c r) ∨
     (∃ r, producesOctets i = true ∧ r.length ≤ s.params.lenMax ∧ t = (s.emit r).answer false 0 .unit) ∨
     (∃ d f u, replacedSlot i = some d ∧ (∀ d', i ≠ .ffree d') ∧ d < s.nslot ∧
       (t = s.deliver d f u ∨ t = s.timeTaken.deliver d f u)) ∨
     (∃ d, i = .ffree d ∧ d < s.nslot ∧ t = (s.setSlot d none).answer false 0 .unit) ∨
     (∃ src v f, i = .setts src v ∧ s.slots[src]? = some (some f) ∧ v < 2 ^ s.params.tsW ∧
       t = (s.setSlot src (some { f with ts := v })).answer false 0 .unit) ∨
     (∃ src v f, i = .setdl src v ∧ s.slots[src]? = some (some f) ∧ v < 2 ^ s.params.tsW ∧ f.dl = none ∧
       t = (s.setSlot src (some { f with dl := some v })).answer false 0 .unit)) := by
  have stopped (r : Except Stop State) {P : State → Prop} (h : ∀ t, r = .ok t → P t) :
      ∃ t, conclude s r = .next t ∧ ((∃ e, t = s.stop e) ∨ P t) := by
    cases r with
    | ok t => exact ⟨t, rfl, .inr (h t rfl)⟩
    | error e => exact ⟨_, rfl, .inl ⟨e, rfl⟩⟩
  cases i
  case aenc | astr | fenc | fstr =>
    refine stopped _ fun t h => ?_
    simp only [bind_eq_ok, produce_eq_ok] at h
    obtain ⟨_, _, hl, rfl⟩ := h
    exact .inr (.inl ⟨_, rfl, hl, rfl⟩)
  case i8 | rr8 | rnr8 | rej8 | srej8 | ui | uother | i16 | rr16 | rnr16 | rej16 | srej16 =>
    simp only [exec, execI8, execRr8, execRnr8, execRej8, execSrej8, execUi, execUother, execI16, execRr16,
      execRnr16, execRej16, execSrej16, classifyField]
    refine stopped _ fun t h => ?_
    obtain ⟨_, _, rfl⟩ := (classify_eq_ok _ _ _ _).1 h
    exact .inl ⟨_, _, _, rfl⟩
  case ccls =>
    refine stopped _ fun t h => ?_
    simp only [bind_eq_ok, classify_eq_ok] at h
    obtain ⟨_, _, _, _, _, _, rfl⟩ := h
    exact .inl ⟨_, _, _, rfl⟩
  case addr7 | amk | adec | fget | getts | getdl | raw =>
    simp only [exec, execAddr7, execAmk, execAdec, execFget, execGetts, execGetdl, execRaw]
    refine stopped _ fun t h => ?_
    simp only [bind_eq_ok, Except.ok.injEq] at h
    first
      | (obtain ⟨_, _, rfl⟩ := h; exact .inl ⟨_, _, _, rfl⟩)
      | (obtain ⟨_, _, _, _, rfl⟩ := h; exact .inl ⟨_, _, _, rfl⟩)
  case ffree d =>
    refine stopped _ fun t h => ?_
    simp only [bind_eq_ok, checkSlot_eq_ok, Except.ok.injEq] at h
    obtain ⟨_, hd, rfl⟩ := h
    exact .inr (.inr (.inr (.inl ⟨_, rfl, hd, rfl⟩)))
  case setts src v =>
    refine stopped _ fun t h => ?_
    simp only [bind_eq_ok, fullSlot_eq_ok, checkTime_eq_ok, Except.ok.injEq] at h
    obtain ⟨f, hf, _, hv, rfl⟩ := h
    exact .inr (.inr (.inr (.inr (.inl ⟨_, _, f, rfl, hf, hv, rfl⟩))))
  case setdl src v =>
    refine stopped _ fun t h => ?_
    simp only [bind_eq_ok, fullSlot_eq_ok, checkTime_eq_ok, raiseIf_eq_ok, ne_eq, not_not, Except.ok.injEq] at h
    obtain ⟨f, hf, _, hv, _, hd, rfl⟩ := h
    exact .inr (.inr (.inr (.inr (.inr ⟨_, _, f, rfl, hf, hv, hd, rfl⟩))))
  case fparse d =>
    refine stopped _ fun t h => ?_
    simp only [bind_eq_ok, checkSlot_eq_ok, Except.ok.injEq] at h
    obtain ⟨_, hd, _, _, rfl⟩ := h
    exact .inr (.inr (.inl ⟨_, _, _, rfl, by simp, hd, .inr rfl⟩))
  case fdecb d m =>
    refine stopped _ fun t h => ?_
    simp only [bind_eq_ok, checkSlot_eq_ok, Except.ok.injEq] at h
    obtain ⟨_, hd, _, _, _, _, rfl⟩ := h
    exact .inr (.inr (.inl ⟨_, _, _, rfl, by simp, hd, .inr rfl⟩))
  case fdecf d src m =>
    refine stopped _ fun t h => ?_
    simp only [bind_eq_ok, checkSlot_eq_ok, Except.ok.injEq] at h
    obtain ⟨_, hd, _, _, _, _, _, _, _, _, rfl⟩ := h
    exact .inr (.inr (.inl ⟨_, _, _, rfl, by simp, hd, .inl rfl⟩))
  case fcpy d src =>
    refine stopped _ fun t h => ?_
    simp only [bind_eq_ok, checkSlot_eq_ok, Except.ok.injEq] at h
    obtain ⟨_, hd, _, _, _, _, rfl⟩ := h
    exact .inr (.inr (.inl ⟨_, _, _, rfl, by simp, hd, .inl rfl⟩))
  all_goals
    rename MkArgs => a
    refine stopped _ fun t h => ?_
    simp only [bind_eq_ok, checkSlot_eq_ok, Except.ok.injEq] at h
    obtain ⟨_, hd, dest, _, src, _, rpt, _, _, _, _, _, _, _, b, _, _, _, rfl⟩ := h
    refine .inr (.inr (.inl ⟨_, assemble s a dest src rpt b, false, rfl, by simp, hd, ?_⟩))
    rcases sampled_eq s a with h | h
    · exact .inl (by rw [h])
    · exact .inr (by rw [h])

end Sys2Proof.Machine
end

