-- ==== Sys2Proof/Laws/Memory.lean ====
section
/-! SUPPORT. The octet memories: reading after writing, and that every memory operation keeps the canonical form. -/

namespace Sys2Proof.Machine

/-- An entry never equals what an unlisted offset reads as, so the canonical form is rising offsets. -/
@[simp] theorem Memory.wf_eq_rising (m : Memory) : Memory.wf m = Memory.rising m := by
  simp [Memory.wf, Memory.unlisted]

theorem Memory.rising_cons (c : Host.Cell) (m : Memory) :
    Memory.rising (c :: m) = true ↔ (∀ h ∈ m.head?, c.1 < h.1) ∧ Memory.rising m = true := by
  cases m with
  | nil => simp [Memory.rising]
  | cons c' m => simp [Memory.rising]

/-! ## One octet written -/

theorem Memory.get_set (m : Memory) (a b : Nat) (v : Byte) :
    Memory.get (Memory.set m a v) b = if b = a then some v else Memory.get m b := by
  induction m with
  | nil => simp [Memory.set, Memory.get, eq_comm]
  | cons c m ih =>
    by_cases h1 : a < c.1
    · simp [Memory.set, h1, Memory.get, eq_comm]
    · by_cases h2 : a = c.1
      · simp only [Memory.set, h2, if_true, if_false, lt_irrefl, Memory.get]
        by_cases h3 : b = c.1 <;> simp [h3, eq_comm]
      · simp only [Memory.set, h1, h2, if_false, Memory.get, ih]
        by_cases h3 : b = a
        · subst h3; simp [Ne.symm h2]
        · simp [h3]

theorem Memory.head_set (m : Memory) (a lo : Nat) (v : Byte) (ha : lo < a) (hm : ∀ h ∈ m.head?, lo < h.1) :
    ∀ h ∈ (Memory.set m a v).head?, lo < h.1 := by
  cases m with
  | nil => simpa [Memory.set] using ha
  | cons c m =>
    have hc : lo < c.1 := hm c (by simp)
    by_cases h1 : a < c.1
    · simpa [Memory.set, h1] using ha
    · by_cases h2 : a = c.1
      · simpa [Memory.set, h2] using hc
      · simpa [Memory.set, h1, h2] using hc

theorem Memory.rising_set (m : Memory) (a : Nat) (v : Byte) (hm : Memory.rising m = true) :
    Memory.rising (Memory.set m a v) = true := by
  induction m with
  | nil => simp [Memory.set, Memory.rising]
  | cons c m ih =>
    obtain ⟨hlt, hr⟩ := (Memory.rising_cons c m).1 hm
    by_cases h1 : a < c.1
    · simp only [Memory.set, h1, if_true]
      exact (Memory.rising_cons _ _).2 ⟨by simpa using h1, hm⟩
    · by_cases h2 : a = c.1
      · simp only [Memory.set, h2, if_true, lt_irrefl, if_false]
        exact (Memory.rising_cons _ _).2 ⟨hlt, hr⟩
      · simp only [Memory.set, h1, h2, if_false]
        exact (Memory.rising_cons _ _).2 ⟨Memory.head_set m a c.1 v (by omega) hlt, ih hr⟩

/-- Writing one octet keeps the canonical form. -/
theorem Memory.wf_set (m : Memory) (a : Nat) (v : Byte) (hm : Memory.wf m = true) :
    Memory.wf (Memory.set m a v) = true := by
  simpa using Memory.rising_set m a v (by simpa using hm)

theorem Memory.mem_set (m : Memory) (a : Nat) (v : Byte) : ∀ c ∈ Memory.set m a v, c = (a, v) ∨ c ∈ m := by
  induction m with
  | nil => simp [Memory.set]
  | cons c m ih =>
    intro x hx
    by_cases h1 : a < c.1
    · simpa [Memory.set, h1] using hx
    · by_cases h2 : a = c.1
      · simp only [Memory.set, h2, if_true, lt_irrefl, if_false, List.mem_cons] at hx ⊢
        tauto
      · simp only [Memory.set, h1, h2, if_false, List.mem_cons] at hx ⊢
        rcases hx with hx | hx
        · exact .inr (.inl hx)
        · rcases ih x hx with h | h
          · exact .inl h
          · exact .inr (.inr h)

/-! ## A run of octets written -/

/-- Storing a run of octets keeps the canonical form. -/
theorem Memory.wf_store (vs : List Byte) : ∀ (m : Memory) (a : Nat), Memory.wf m = true →
    Memory.wf (Memory.store m a vs) = true := by
  induction vs with
  | nil => intro m a hm; simpa [Memory.store] using hm
  | cons v vs ih => intro m a hm; exact ih _ _ (Memory.wf_set m a v hm)

/-- Reading after storing a run: the octet of the run inside it, what was there before outside it. -/
theorem Memory.get_store (vs : List Byte) : ∀ (m : Memory) (a b : Nat),
    Memory.get (Memory.store m a vs) b =
      if a ≤ b ∧ b < a + vs.length then vs[b - a]? else Memory.get m b := by
  induction vs with
  | nil => intro m a b; simp only [Memory.store, List.length_nil]; rw [if_neg (by omega)]
  | cons v vs ih =>
    intro m a b
    simp only [Memory.store, ih, Memory.get_set, List.length_cons]
    by_cases h1 : b = a
    · subst h1; simp
    · by_cases h2 : a + 1 ≤ b ∧ b < a + 1 + vs.length
      · have h3 : b - a = (b - (a + 1)) + 1 := by omega
        rw [if_pos h2, if_pos ⟨by omega, by omega⟩, h3]
        simp
      · rw [if_neg h2, if_neg h1, if_neg (by omega)]

theorem Memory.mem_store (vs : List Byte) : ∀ (m : Memory) (a : Nat),
    ∀ c ∈ Memory.store m a vs, c ∈ m ∨ (a ≤ c.1 ∧ c.1 < a + vs.length) := by
  induction vs with
  | nil => intro m a c hc; exact .inl (by simpa [Memory.store] using hc)
  | cons v vs ih =>
    intro m a c hc
    rcases ih _ _ c hc with h | h
    · rcases Memory.mem_set m a v c h with h | h
      · right; simp [h]
      · exact .inl h
    · right; simp; omega

/-! ## `MemRead` (R11) -/

/-- `MemRead(off, n)` gives `n` octets. -/
@[simp] theorem State.memRead_length (s : State) (off n : Nat) : (s.memRead off n).length = n := by
  simp [State.memRead]

/-- An offset that holds a value reads as that value. -/
theorem State.ibufOctet_of_get (s : State) (a : Nat) (v : Byte) (h : Memory.get s.ibuf a = some v) :
    s.ibufOctet a = v := by
  simp [State.ibufOctet, h]

/-! ## A whole buffer replaced -/

theorem Memory.get_ofOctets (r : List Byte) : ∀ a b : Nat,
    Memory.get (Memory.ofOctets a r) b = if a ≤ b then r[b - a]? else none := by
  induction r with
  | nil => intro a b; simp [Memory.ofOctets, Memory.get, Memory.unlisted]
  | cons v vs ih =>
    intro a b
    simp only [Memory.ofOctets, Memory.get, ih]
    by_cases h : a = b
    · subst h; simp
    · by_cases h2 : a ≤ b
      · have h3 : b - a = (b - (a + 1)) + 1 := by omega
        rw [if_neg h, if_pos (by omega), if_pos h2, h3]
        simp
      · rw [if_neg h, if_neg (by omega), if_neg h2]

/-- A replaced buffer is in canonical form. -/
theorem Memory.wf_ofOctets (r : List Byte) : ∀ a : Nat, Memory.wf (Memory.ofOctets a r) = true := by
  induction r with
  | nil => intro a; rfl
  | cons v vs ih =>
    intro a
    have h := ih (a + 1)
    simp only [Memory.wf_eq_rising, Memory.ofOctets] at h ⊢
    refine (Memory.rising_cons _ _).2 ⟨?_, h⟩
    cases vs <;> simp [Memory.ofOctets]

/-- The buffers of the reset state are in canonical form. -/
theorem reset_memories_wf : Memory.wf State.reset.ibuf = true ∧ Memory.wf State.reset.obuf = true := ⟨rfl, rfl⟩

end Sys2Proof.Machine
end

