-- ==== Sys2Proof/Laws/PerInstr.lean ====
section
/-! SUPPORT. Statements made once per instruction of the syntax. -/

namespace Sys2Proof.Laws.CarriedForm

/-- The kind of input an instruction is carried as: an operation is a request whose first octet is an assigned
command code (R100), a format is a bare field that has no command code. -/
def Statement (i : Instr) : Prop :=
  match encode i with
  | .request [] => False
  | .request (c :: _) => (opReader c).isSome = true
  | .control _ _ => commandCode i = none
  | .address _ => commandCode i = none

theorem amk (call : List Ch) (ssid : Nat) (ch : Bool) (rsv : Option (BitVec 2)) (ext : Option Bool) :
    Statement (.amk call ssid ch rsv ext) := rfl

theorem adec (off : Option Nat) : Statement (.adec off) := rfl

theorem aenc (a : AddrOperand) : Statement (.aenc a) := rfl

theorem astr (a : AddrOperand) : Statement (.astr a) := rfl

theorem ccls (off : Option Nat) (m : Option (BitVec 2)) : Statement (.ccls off m) := rfl

theorem fparse (d : Nat) : Statement (.fparse d) := rfl

theorem fdecb (d : Nat) (m : Option (BitVec 2)) : Statement (.fdecb d m) := rfl

theorem fdecf (d src : Nat) (m : Option (BitVec 2)) : Statement (.fdecf d src m) := rfl

theorem mkraw (a : MkArgs) : Statement (.mkraw a) := rfl

theorem mkui (a : MkArgs) (pf : Option Nat) (pid : Nat) : Statement (.mkui a pf pid) := rfl

theorem mki8 (a : MkArgs) (ns nr : Nat) (pf : Option Nat) (pid : Nat) : Statement (.mki8 a ns nr pf pid) := rfl

theorem mki16 (a : MkArgs) (ns nr : Nat) (pf : Option Nat) (pid : Nat) : Statement (.mki16 a ns nr pf pid) := rfl

theorem mkrr8 (a : MkArgs) (nr : Nat) (pf : Option Nat) : Statement (.mkrr8 a nr pf) := rfl

theorem mkrnr8 (a : MkArgs) (nr : Nat) (pf : Option Nat) : Statement (.mkrnr8 a nr pf) := rfl

theorem mkrej8 (a : MkArgs) (nr : Nat) (pf : Option Nat) : Statement (.mkrej8 a nr pf) := rfl

theorem mksrej8 (a : MkArgs) (nr : Nat) (pf : Option Nat) : Statement (.mksrej8 a nr pf) := rfl

theorem mkrr16 (a : MkArgs) (nr : Nat) (pf : Option Nat) : Statement (.mkrr16 a nr pf) := rfl

theorem mkrnr16 (a : MkArgs) (nr : Nat) (pf : Option Nat) : Statement (.mkrnr16 a nr pf) := rfl

theorem mkrej16 (a : MkArgs) (nr : Nat) (pf : Option Nat) : Statement (.mkrej16 a nr pf) := rfl

theorem mksrej16 (a : MkArgs) (nr : Nat) (pf : Option Nat) : Statement (.mksrej16 a nr pf) := rfl

theorem fenc (src : Nat) : Statement (.fenc src) := rfl

theorem fcpy (d src : Nat) : Statement (.fcpy d src) := rfl

theorem fstr (src : Nat) : Statement (.fstr src) := rfl

theorem fget (src : Nat) : Statement (.fget src) := rfl

theorem ffree (d : Nat) : Statement (.ffree d) := rfl

theorem getts (src : Nat) : Statement (.getts src) := rfl

theorem setts (src v : Nat) : Statement (.setts src v) := rfl

theorem getdl (src : Nat) : Statement (.getdl src) := rfl

theorem setdl (src v : Nat) : Statement (.setdl src v) := rfl

theorem i8 (ns nr : BitVec 3) (pf : Bool) : Statement (.i8 ns nr pf) := rfl

theorem rr8 (nr : BitVec 3) (pf : Bool) : Statement (.rr8 nr pf) := rfl

theorem rnr8 (nr : BitVec 3) (pf : Bool) : Statement (.rnr8 nr pf) := rfl

theorem rej8 (nr : BitVec 3) (pf : Bool) : Statement (.rej8 nr pf) := rfl

theorem srej8 (nr : BitVec 3) (pf : Bool) : Statement (.srej8 nr pf) := rfl

theorem ui (pf : Bool) : Statement (.ui pf) := rfl

theorem uother (c0 : Byte) : Statement (.uother c0) := rfl

theorem i16 (ns nr : BitVec 7) (pf : Bool) : Statement (.i16 ns nr pf) := rfl

theorem rr16 (nr : BitVec 7) (pf : Bool) : Statement (.rr16 nr pf) := rfl

theorem rnr16 (nr : BitVec 7) (pf : Bool) : Statement (.rnr16 nr pf) := rfl

theorem rej16 (nr : BitVec 7) (pf : Bool) : Statement (.rej16 nr pf) := rfl

theorem srej16 (nr : BitVec 7) (pf : Bool) : Statement (.srej16 nr pf) := rfl

theorem raw (m : Modulus) (payload : List Byte) : Statement (.raw m payload) := rfl

theorem addr7 (octets : List Byte) : Statement (.addr7 octets) := rfl

end Sys2Proof.Laws.CarriedForm
end

