-- ==== Sys2Proof/Tests/Slice0.lean ====
section
/-! SUPPORT. The model's own tests. Expected values are the spec's: the encodings of 30_encoding.md, written out bit
by bit, and the vectors of 95_test_vectors.md, named by their ids. The last part shows, for each statement that has
hypotheses, concrete inputs that meet them, at the edges of their ranges. -/

namespace Sys2Proof.Tests

open Sys2Proof.Machine Sys2Proof.Claims

/-! ## A small state, and readers of an outcome -/

/-- After reset, `TIME` held at 100. -/
def base : State := { State.resetWith ⟨330, 8, 64⟩ 4 with time := some 100 }

/-- Small bounds, so that every edge is in reach: two slots, `LEN_MAX = 40`, `RPT_MAX = 2`, `TS_W = 8`. -/
def small : State := { State.resetWith ⟨40, 2, 8⟩ 2 with time := some 7 }

def withInput (s : State) (bs : List Byte) : State := { s with ibuf := Memory.ofOctets 0 bs, ilen := bs.length }

def withFrame (s : State) (i : Nat) (f : Frame) : State := { s with slots := s.slots.set i (some f) }

def after (o : Host.Outcome State Fault Refusal) : Option State :=
  match o with
  | .next t => some t
  | .fault _ => none
  | .refused _ => none

/-- `STATUS` and the response. -/
def seen (o : Host.Outcome State Fault Refusal) : Option (BitVec 8 × Response) :=
  (after o).map fun t => (t.status, t.resp)

/-- `STATUS` and the frame of a slot. -/
def made (o : Host.Outcome State Fault Refusal) (i : Nat) : Option (BitVec 8 × Option Frame) :=
  (after o).map fun t => (t.status, t.slot i)

/-- `OLEN` and `OBUF`. -/
def written (o : Host.Outcome State Fault Refusal) : Option (Nat × Memory) :=
  (after o).map fun t => (t.olen, t.obuf)

/-- The octets `r` and nothing else in `OBUF`. -/
def holds (r : List Byte) : Option (Nat × Memory) := some (r.length, Memory.ofOctets 0 r)

def vk4bwi : List Ch := [0x56, 0x4B, 0x34, 0x42, 0x57, 0x49]
def vk4msl : List Ch := [0x56, 0x4B, 0x34, 0x4D, 0x53, 0x4C]
def wide2 : List Ch := [0x57, 0x49, 0x44, 0x45, 0x32]

def headC : List Byte := [0xAC, 0x96, 0x68, 0x84, 0xAE, 0x92, 0xE0, 0xAC, 0x96, 0x68, 0x9A, 0xA6, 0x98, 0x61]
def headR : List Byte := [0xAC, 0x96, 0x68, 0x84, 0xAE, 0x92, 0x60, 0xAC, 0x96, 0x68, 0x9A, 0xA6, 0x98, 0xE1]

/-- The frame of `HDRc` and a body. -/
def frameC (b : Body) (ts : Nat) (dl : Option Nat) : Frame :=
  ⟨⟨vk4bwi, 0, true, 3, false⟩, ⟨vk4msl, 0, false, 3, true⟩, [], ts, dl, b⟩

/-- The frame of `HDRr` and a body. -/
def frameR (b : Body) (ts : Nat) (dl : Option Nat) : Frame :=
  ⟨⟨vk4bwi, 0, false, 3, false⟩, ⟨vk4msl, 0, true, 3, true⟩, [], ts, dl, b⟩

/-- Constructor operands to slot 0, with short literals for both addresses (R101). -/
def mk (cr : Bool) (ts dl : Option Nat) : MkArgs :=
  ⟨0, shortAddr vk4bwi 0 false, shortAddr vk4msl 0 false, [], cr, none, ts, dl⟩

/-! ## WellFormed refuses each ill-formed term -/

theorem test_wellFormed_uother_of_another_class : WellFormed (.uother 0b10110001) = false := by decide
theorem test_wellFormed_uother_of_ui : WellFormed (.uother 0b00010011) = false := by decide
theorem test_wellFormed_uother : WellFormed (.uother 0b00101111) = true := by decide
theorem test_wellFormed_raw_empty : WellFormed (.raw .nomod []) = false := by decide
theorem test_wellFormed_raw_unnumbered : WellFormed (.raw .nomod [0b00101111]) = false := by decide
theorem test_wellFormed_raw_claimed_information :
    WellFormed (.raw .m8 [0x00, 0xF0]) = false ∧ WellFormed (.raw .m128 [0x00, 0x00, 0xF0]) = false := by decide
theorem test_wellFormed_raw_claimed_supervisory :
    WellFormed (.raw .m8 [0xB1]) = false ∧ WellFormed (.raw .m128 [0x09, 0x80]) = false := by decide
theorem test_wellFormed_raw :
    WellFormed (.raw .nomod [0x00]) = true ∧ WellFormed (.raw .m8 [0x09, 0x80]) = true ∧
    WellFormed (.raw .m128 [0xB1]) = true ∧ WellFormed (.raw .m128 [0x01, 0x00, 0x00]) = true := by decide
theorem test_wellFormed_addr7_of_six :
    WellFormed (.addr7 [0xAC, 0x96, 0x68, 0x84, 0xAE, 0x92]) = false := by decide
theorem test_wellFormed_addr7 :
    WellFormed (.addr7 [0xAC, 0x96, 0x68, 0x84, 0xAE, 0x92, 0x60]) = true := by decide

/-! ## Decoding: control fields (R88, R90, R93), written `nr pf ns 0`, `nr pf st 01`, … -/

theorem test_decode_modulo8 :
    decode (.control .m8 [0b101_0_011_0]) = .ok (.i8 3 5 false) ∧
    decode (.control .m8 [0b101_1_0001]) = .ok (.rr8 5 true) ∧
    decode (.control .m8 [0b011_1_0101]) = .ok (.rnr8 3 true) ∧
    decode (.control .m8 [0b111_0_1001]) = .ok (.rej8 7 false) ∧
    decode (.control .m8 [0b010_0_1101]) = .ok (.srej8 2 false) := by decide

theorem test_decode_modulo128 :
    decode (.control .m128 [0b0000011_0, 0b1100100_0]) = .ok (.i16 3 100 false) ∧
    decode (.control .m128 [0b0000_0001, 0b1111111_1]) = .ok (.rr16 127 true) ∧
    decode (.control .m128 [0b0000_0101, 0b0000001_1]) = .ok (.rnr16 1 true) ∧
    decode (.control .m128 [0b0000_1001, 0b1000000_0]) = .ok (.rej16 64 false) ∧
    decode (.control .m128 [0b0000_1101, 0b1100100_0]) = .ok (.srej16 100 false) := by decide

theorem test_decode_unnumbered :
    decode (.control .nomod [0b000_0_0011]) = .ok (.ui false) ∧
    decode (.control .m8 [0b000_1_0011]) = .ok (.ui true) ∧
    decode (.control .m8 [0b001_0_1111]) = .ok (.uother 0x2F) ∧
    decode (.control .m128 [0b011_0_0011]) = .ok (.uother 0x63) := by decide

theorem test_decode_raw :
    decode (.control .nomod [0x00]) = .ok (.raw .nomod [0x00]) ∧
    decode (.control .m128 [0xB1]) = .ok (.raw .m128 [0xB1]) ∧
    decode (.control .m8 [0x09, 0x80]) = .ok (.raw .m8 [0x09, 0x80]) := by decide

theorem test_decode_address :
    decode (.address [0x82, 0x40, 0x40, 0x40, 0x40, 0x40, 0x61]) =
      .ok (.addr7 [0x82, 0x40, 0x40, 0x40, 0x40, 0x40, 0x61]) := by decide

/-! ## Decoding: operations, the command codes of R100 with the model's operand octets -/

theorem test_decode_address_codec :
    decode (.request [0x01, 1, 0x41, 15, 1, 1, 2, 1, 1]) = .ok (.amk [0x41] 15 true (some 2) (some true)) ∧
    decode (.request [0x02, 1, 7]) = .ok (.adec (some 7)) ∧
    decode (.request [0x03, 1, 0x41, 15, 1, 2, 1]) = .ok (.aenc ⟨[0x41], 15, true, 2, true⟩) ∧
    decode (.request [0x04, 1, 0x41, 15, 0, 3, 0]) = .ok (.astr ⟨[0x41], 15, false, 3, false⟩) := by decide

theorem test_decode_classifier_and_parser :
    decode (.request [0x10, 1, 14, 1, 2]) = .ok (.ccls (some 14) (some 2)) ∧
    decode (.request [0x20, 3]) = .ok (.fparse 3) ∧
    decode (.request [0x21, 0, 1, 1]) = .ok (.fdecb 0 (some 1)) ∧
    decode (.request [0x22, 1, 0, 0]) = .ok (.fdecf 1 0 none) := by decide

/-- The operands of a constructor: slot 2, `A-1` to `B`, one repeater `C*`, `cr = 1`, `src_cr = 1`, `ts = 300`. -/
def someMk : MkArgs :=
  ⟨2, ⟨[0x41], 1, false, 3, false⟩, ⟨[0x42], 0, false, 3, false⟩, [⟨[0x43], 0, true, 3, false⟩], true, some true,
    some 300, none⟩

def someMkOctets : List Byte :=
  [2, 1, 0x41, 1, 0, 3, 0, 1, 0x42, 0, 0, 3, 0, 1, 1, 0x43, 0, 1, 3, 0, 1, 1, 1, 1, 0xAC, 0x02, 0]

theorem test_decode_constructors :
    decode (.request (0x30 :: someMkOctets)) = .ok (.mkraw someMk) ∧
    decode (.request (0x31 :: someMkOctets ++ [1, 1, 0xF0, 0x01])) = .ok (.mkui someMk (some 1) 0xF0) ∧
    decode (.request (0x32 :: someMkOctets ++ [3, 5, 0, 0xCF, 0x01])) = .ok (.mki8 someMk 3 5 none 0xCF) ∧
    decode (.request (0x33 :: someMkOctets ++ [3, 100, 0, 0xCF, 0x01])) = .ok (.mki16 someMk 3 100 none 0xCF) := by
  decide

theorem test_decode_supervisory_constructors :
    decode (.request (0x34 :: someMkOctets ++ [5, 1, 1])) = .ok (.mkrr8 someMk 5 (some 1)) ∧
    decode (.request (0x35 :: someMkOctets ++ [5, 1, 1])) = .ok (.mkrnr8 someMk 5 (some 1)) ∧
    decode (.request (0x36 :: someMkOctets ++ [5, 1, 1])) = .ok (.mkrej8 someMk 5 (some 1)) ∧
    decode (.request (0x37 :: someMkOctets ++ [5, 1, 1])) = .ok (.mksrej8 someMk 5 (some 1)) ∧
    decode (.request (0x38 :: someMkOctets ++ [100, 0])) = .ok (.mkrr16 someMk 100 none) ∧
    decode (.request (0x39 :: someMkOctets ++ [100, 0])) = .ok (.mkrnr16 someMk 100 none) ∧
    decode (.request (0x3A :: someMkOctets ++ [100, 0])) = .ok (.mkrej16 someMk 100 none) ∧
    decode (.request (0x3B :: someMkOctets ++ [100, 0])) = .ok (.mksrej16 someMk 100 none) := by decide

theorem test_decode_slot_operations :
    decode (.request [0x40, 2]) = .ok (.fenc 2) ∧ decode (.request [0x41, 3, 2]) = .ok (.fcpy 3 2) ∧
    decode (.request [0x42, 2]) = .ok (.fstr 2) ∧ decode (.request [0x43, 2]) = .ok (.fget 2) ∧
    decode (.request [0x44, 2]) = .ok (.ffree 2) := by decide

theorem test_decode_metadata :
    decode (.request [0x50, 2]) = .ok (.getts 2) ∧ decode (.request [0x51, 3, 99]) = .ok (.setts 3 99) ∧
    decode (.request [0x52, 1]) = .ok (.getdl 1) ∧ decode (.request [0x53, 1, 0x84, 0x07]) = .ok (.setdl 1 900) := by
  decide

theorem test_decode_rejects_by_name :
    decode (.request [0x05]) = .error (.unknownOp 0x05) ∧ decode (.request []) = .error .noOctets ∧
    decode (.request [0x40]) = .error (.badOperands 0x40) ∧ decode (.control .m8 []) = .error .noControl ∧
    decode (.control .m128 [0x00]) = .error .shortControl ∧ decode (.address [0x82]) = .error (.shortAddress 1) := by
  decide

/-- Words of opcode_table.json; 0x01 and 0x03 are both a command code and a control octet (log entry 3). -/
theorem test_decodeTableWord :
    decodeTableWord 8 0x40 = some (.fenc 0) ∧ decodeTableWord 8 0xA6 = some (.i8 3 5 false) ∧
    decodeTableWord 16 0xC806 = some (.i16 3 100 false) ∧ decodeTableWord 16 0x800D = some (.srej16 64 false) ∧
    decodeTableWord 8 0x13 = some (.ui true) ∧ decodeTableWord 0 0 = some (.raw .nomod [0x00]) ∧
    decodeTableWord 56 0x61404040404082 = some (.addr7 [0x82, 0x40, 0x40, 0x40, 0x40, 0x40, 0x61]) := by decide

theorem test_pseudo_operations :
    commandCode (fdec 2) = some 0x21 ∧ commandCode (mks8 .rej (mk true none none) 0 none) = some 0x36 ∧
    commandCode (mks16 .srej (mk true none none) 0 none) = some 0x3B := by decide

/-! ## Address codec: vectors A1 to A28 -/

theorem test_amk_defaults : seen (execAmk vk4msl 0 false none none base) =
    some (0x00, .ok (.address ⟨vk4msl, 0, false, 3, false⟩)) := by decide
theorem test_amk_ssid_above_15 : (seen (execAmk vk4msl 16 false none none base)).map Prod.fst = some 0x02 := by decide
theorem test_adec_ignores_bit_0 :
    seen (execAdec (some 0) (withInput base [0xAD, 0x96, 0x68, 0x84, 0xAE, 0x92, 0xE0])) =
      some (0x00, .ok (.address ⟨vk4bwi, 0, true, 3, false⟩)) := by decide
theorem test_adec_short : (seen (execAdec (some 8) (withInput base headC))).map Prod.fst = some 0x02 := by decide
theorem test_aenc_WIDE2_2 : written (execAenc ⟨wide2, 2, true, 3, true⟩ base) =
    holds [0xAE, 0x92, 0x88, 0x8A, 0x64, 0x40, 0xE5] := by decide
theorem test_aenc_rsv_0 : written (execAenc ⟨[0x41, 0x42, 0x31, 0x43, 0x44], 10, false, 0, false⟩ base) =
    holds [0x82, 0x84, 0x62, 0x86, 0x88, 0x40, 0x14] := by decide
theorem test_astr_one_digit : written (execAstr ⟨wide2, 2, true, 3, true⟩ base) =
    holds [0x57, 0x49, 0x44, 0x45, 0x32, 0x2D, 0x32] := by decide
theorem test_astr_two_digits : written (execAstr ⟨[0x41, 0x42, 0x31, 0x43, 0x44], 10, false, 0, false⟩ base) =
    holds [0x41, 0x42, 0x31, 0x43, 0x44, 0x2D, 0x31, 0x30] := by decide
theorem test_addr7_all_ones : seen (execAddr7 [0x82, 0x40, 0x40, 0x40, 0x40, 0x40, 0xFF] base) =
    some (0x00, .ok (.address ⟨[0x41], 15, true, 3, true⟩)) := by decide
theorem test_addr7_embedded_space :
    (seen (execAddr7 [0xAC, 0x40, 0x68, 0x84, 0xAE, 0x92, 0x60] base)).map Prod.fst = some 0x02 := by decide

/-! ## Classifier: vectors K1 to K30 -/

theorem test_ccls_at_an_offset : seen (execCcls (some 14) none (withInput base (headC ++ [0x03, 0xF0]))) =
    some (0x00, .ok (.classified .unnumbered (.claim (.ui false) 1))) := by decide
theorem test_ccls_high_nibble : seen (execCcls none (some 2) (withInput base [0xB1])) =
    some (0x08, .ok (.classified .supervisory .unrecognised)) := by decide
theorem test_i8 : seen (execI8 7 7 true base) =
    some (0x00, .ok (.classified .information (.claim (.i8 7 7 true) 1))) := by decide
theorem test_rr8 : seen (execRr8 5 true base) =
    some (0x00, .ok (.classified .supervisory (.claim (.s8 .rr 5 true) 1))) := by decide
theorem test_rnr8 : seen (execRnr8 3 true base) =
    some (0x00, .ok (.classified .supervisory (.claim (.s8 .rnr 3 true) 1))) := by decide
theorem test_rej8 : seen (execRej8 7 false base) =
    some (0x00, .ok (.classified .supervisory (.claim (.s8 .rej 7 false) 1))) := by decide
theorem test_srej8 : seen (execSrej8 2 false base) =
    some (0x00, .ok (.classified .supervisory (.claim (.s8 .srej 2 false) 1))) := by decide
theorem test_ui : seen (execUi true base) =
    some (0x00, .ok (.classified .unnumbered (.claim (.ui true) 1))) := by decide
theorem test_uother : seen (execUother 0x63 base) =
    some (0x08, .ok (.classified .unnumbered .unrecognised)) := by decide
theorem test_i16 : seen (execI16 64 1 true base) =
    some (0x00, .ok (.classified .information (.claim (.i16 64 1 true) 2))) := by decide
theorem test_rr16 : seen (execRr16 127 true base) =
    some (0x00, .ok (.classified .supervisory (.claim (.s16 .rr 127 true) 2))) := by decide
theorem test_rnr16 : seen (execRnr16 1 true base) =
    some (0x00, .ok (.classified .supervisory (.claim (.s16 .rnr 1 true) 2))) := by decide
theorem test_rej16 : seen (execRej16 64 false base) =
    some (0x00, .ok (.classified .supervisory (.claim (.s16 .rej 64 false) 2))) := by decide
theorem test_srej16 : seen (execSrej16 100 false base) =
    some (0x00, .ok (.classified .supervisory (.claim (.s16 .srej 100 false) 2))) := by decide
theorem test_raw_trailing_octet : seen (execRaw .m128 [0x01, 0x00, 0x00] base) =
    some (0x08, .ok (.promoted (.raw [0x01, 0x00, 0x00]))) := by decide
theorem test_ctlEnc : ctlEnc (.i8 3 5 false) = [0xA6] ∧ ctlEnc (.s8 .rej 7 false) = [0xE9] ∧
    ctlEnc (.i16 127 127 true) = [0xFE, 0xFF] ∧ ctlEnc (.s16 .rej 64 false) = [0x09, 0x80] ∧
    ctlEnc (.ui true) = [0x13] := by decide

/-! ## Parser: vectors P2, P9, P10, P17, P28, step 3 of program P1 -/

theorem test_fparse : made (execFparse 0 (withInput base (headC ++ [0x03, 0xF0, 0x54]))) 0 =
    some (0x10, some (frameC (.raw [0x03, 0xF0, 0x54]) 100 none)) := by decide
theorem test_fparse_no_control : made (execFparse 0 (withInput base headC)) 0 = some (0x01, none) := by decide
theorem test_fdecb_m128 : made (execFdecb 0 (some 2) (withInput base (headC ++ [0x00, 0x11, 0x22, 0x33]))) 0 =
    some (0x40, some (frameC (.i16 0 8 true 0x22 [0x33]) 100 none)) := by decide
theorem test_fdecb_no_modulus : made (execFdecb 0 none (withInput base (headR ++ [0xB1]))) 0 =
    some (0x18, some (frameR (.raw [0xB1]) 100 none)) := by decide
theorem test_fdecf_keeps_metadata :
    made (execFdecf 1 0 none (withFrame base 0 (frameC (.raw [0x03, 0xF0, 0x54]) 9 (some 11)))) 1 =
      some (0x20, some (frameC (.ui false 0xF0 [0x54]) 9 (some 11))) := by decide
theorem test_fdecf_no_pid :
    made (execFdecf 2 1 none (withFrame base 1 (frameC (.raw [0x03]) 9 none))) 2 = some (0x01, none) := by decide

/-! ## Assembler: programs P1, P2, P4, vectors M24 to M35 -/

theorem test_mkraw : made (execMkraw (mk true none none) (withInput base [0x03, 0xF0])) 0 =
    some (0x10, some (frameC (.raw [0x03, 0xF0]) 100 none)) := by decide
theorem test_mkraw_empty : made (execMkraw (mk true none none) base) 0 = some (0x07, none) := by decide
theorem test_mkui : made (execMkui (mk true none none) none 0xF0 (withInput base [0x54])) 0 =
    some (0x20, some (frameC (.ui false 0xF0 [0x54]) 100 none)) := by decide
theorem test_mkui_pid_256 : made (execMkui (mk true none none) none 256 base) 0 = some (0x07, none) := by decide
theorem test_mki8 : made (execMki8 (mk true none none) 3 5 (some 1) 0xF0 (withInput base [0x54])) 0 =
    some (0x30, some (frameC (.i8 3 5 true 0xF0 [0x54]) 100 none)) := by decide
theorem test_mki8_ns_8 : made (execMki8 (mk true none none) 8 5 none 0xF0 base) 0 = some (0x07, none) := by decide
theorem test_mki16 : made (execMki16 (mk true none none) 64 1 (some 1) 0xF0 (withInput base [0x54])) 0 =
    some (0x40, some (frameC (.i16 64 1 true 0xF0 [0x54]) 100 none)) := by decide
theorem test_mkrr8 : made (execMkrr8 (mk false (some 10) (some 500)) 5 (some 1) base) 0 =
    some (0x50, some (frameR (.s8 .rr 5 true) 10 (some 500))) := by decide
theorem test_mkrr8_bad_slot :
    seen (execMkrr8 ⟨4, shortAddr vk4bwi 0 false, shortAddr vk4msl 0 false, [], false, none, none, none⟩ 0 none
      base) = some (0x07, .refused .badSlot) := by decide
theorem test_mkrnr8 : made (execMkrnr8 (mk false none none) 3 (some 1) base) 0 =
    some (0x60, some (frameR (.s8 .rnr 3 true) 100 none)) := by decide
theorem test_mkrej8 : made (execMkrej8 (mk false none none) 7 none base) 0 =
    some (0x70, some (frameR (.s8 .rej 7 false) 100 none)) := by decide
theorem test_mksrej8 : made (execMksrej8 (mk false none none) 2 none base) 0 =
    some (0x80, some (frameR (.s8 .srej 2 false) 100 none)) := by decide
theorem test_mkrr16 : made (execMkrr16 (mk false none none) 127 (some 1) base) 0 =
    some (0x90, some (frameR (.s16 .rr 127 true) 100 none)) := by decide
theorem test_mkrr16_nr_128 : made (execMkrr16 (mk false none none) 128 none base) 0 = some (0x07, none) := by decide
theorem test_mkrnr16 : made (execMkrnr16 (mk false none none) 1 (some 1) base) 0 =
    some (0xA0, some (frameR (.s16 .rnr 1 true) 100 none)) := by decide
theorem test_mkrej16 : made (execMkrej16 (mk false none none) 64 none base) 0 =
    some (0xB0, some (frameR (.s16 .rej 64 false) 100 none)) := by decide
theorem test_mksrej16 : made (execMksrej16 (mk false none none) 100 none base) 0 =
    some (0xC0, some (frameR (.s16 .srej 100 false) 100 none)) := by decide
theorem test_fenc : written (execFenc 2 (withFrame base 2 (frameR (.s8 .rr 5 true) 50 none))) =
    holds (headR ++ [0xB1]) := by decide
theorem test_fenc_empty : seen (execFenc 1 base) = some (0x07, .refused .emptySlot) := by decide
theorem test_fcpy : made (execFcpy 3 2 (withFrame base 2 (frameR (.s8 .rr 5 true) 50 (some 9)))) 3 =
    some (0x50, some (frameR (.s8 .rr 5 true) 50 (some 9))) := by decide
theorem test_fstr : written (execFstr 1 (withFrame base 1 (frameC (.ui false 0xF0 []) 100 none))) =
    holds [0x56, 0x4B, 0x34, 0x4D, 0x53, 0x4C, 0x3E, 0x56, 0x4B, 0x34, 0x42, 0x57, 0x49] := by decide
theorem test_fget : seen (execFget 1 (withFrame base 1 (frameC (.ui false 0xF0 []) 100 none))) =
    some (0x20, .ok (.frame (some ⟨2, true, frameC (.ui false 0xF0 []) 100 none⟩))) := by decide
theorem test_fget_empty : seen (execFget 1 base) = some (0x00, .ok (.frame none)) := by decide
theorem test_ffree : made (execFfree 1 (withFrame base 1 (frameC (.ui false 0xF0 []) 100 none))) 1 =
    some (0x00, none) := by decide
theorem test_ffree_empty : made (execFfree 1 base) 1 = some (0x00, none) := by decide

/-! ## Metadata: vectors T3 to T11, program P2 -/

theorem test_getts : seen (execGetts 2 (withFrame base 2 (frameR (.s8 .rr 5 true) 50 none))) =
    some (0x00, .ok (.timestamp 50)) := by decide
theorem test_setts_may_decrease : made (execSetts 3 3 (withFrame base 3 (frameR (.s8 .rr 5 true) 7 (some 1)))) 3 =
    some (0x00, some (frameR (.s8 .rr 5 true) 3 (some 1))) := by decide
theorem test_setts_too_wide :
    seen (execSetts 3 (2 ^ 64) (withFrame base 3 (frameR (.s8 .rr 5 true) 7 none))) =
      some (0x07, .refused .fieldRange) := by decide
theorem test_getdl_none : seen (execGetdl 1 (withFrame base 1 (frameR (.s8 .rr 5 true) 50 none))) =
    some (0x00, .ok (.deadline none)) := by decide
theorem test_setdl : made (execSetdl 1 700 (withFrame base 1 (frameR (.s8 .rr 5 true) 50 none))) 1 =
    some (0x00, some (frameR (.s8 .rr 5 true) 50 (some 700))) := by decide
theorem test_setdl_same_value : made (execSetdl 0 0 (withFrame base 0 (frameR (.s8 .rr 0 false) 5 (some 0)))) 0 =
    some (0x03, some (frameR (.s8 .rr 0 false) 5 (some 0))) := by decide

/-! ## The step -/

theorem test_step_waits : after (step base) = some base := by decide
theorem test_step_unknown_op : seen (step (offerEvent base (.item (.request [0x05])))) =
    some (0x07, .refused .unknownOp) := by decide
/-- R142: no second control octet; 92_eei_decisions.md D33: a request with no meaning is refused. -/
theorem test_step_short_inputs :
    (seen (step (offerEvent base (.item (.control .m128 [0x00]))))).map Prod.fst = some 0x01 ∧
    (seen (step (offerEvent base (.item (.address [0x82]))))).map Prod.fst = some 0x02 ∧
    (seen (step (offerEvent base (.item (.request [0x40]))))).map Prod.fst = some 0x07 := by decide
theorem test_step_runs_a_table_word : seen (step (State.reset.withFetchWord 16 0x800D)) =
    some (0x00, .ok (.classified .supervisory (.claim (.s16 .srej 64 false) 2))) := by decide

/-! ## Witnesses: inputs that meet the hypotheses of the statements, clause by clause -/

/-- Operands at their edges: the last slot, 6 and 1 characters, SSID 15, `RPT_MAX` repeaters, the greatest `TS_W`-bit
values; `A`, `Z`, `0`, `9` among the characters. -/
def edge : MkArgs :=
  ⟨1, ⟨vk4bwi, 15, true, 3, true⟩, ⟨[0x5A], 0, false, 0, false⟩,
    [⟨[0x30], 0, true, 1, false⟩, ⟨[0x39, 0x41], 1, false, 2, true⟩], true, none, some 255, some 255⟩

/-- One more of everything that is bounded. -/
def badEmpty : AddrOperand := ⟨[], 0, false, 3, false⟩
def badSsid : AddrOperand := ⟨[0x41], 16, false, 3, false⟩

def zeros (n : Nat) : State := withInput small (List.replicate n 0)

def lenMaxIs (n : Nat) (s : State) : State := { s with params := ⟨n, 2, 8⟩ }

/-- A state that meets the invariant: a frame, octets in both buffers, a request pending. -/
def busy : State :=
  { withFrame small 1 (frameC (.ui true 0xF0 [0x41]) 255 (some 255)) with
    status := 0x20, ibuf := [(39, 0x41)], ilen := 40, obuf := [(0, 0x41)], olen := 1
    inbox := [.item (.request [0x40, 1])] }

theorem witness_DecodeOfEncodeIsTheInstruction :
    WellFormed (.mkraw edge) = true ∧ WellFormed (.uother 0xFF) = true ∧
    WellFormed (.raw .m128 [0xFD]) = true ∧ WellFormed (.addr7 [0, 0, 0, 0, 0, 0, 0]) = true := by decide

theorem witness_BareFieldsEncodeToTheirOctets :
    decode (.control .m128 [0xFE, 0xFF, 0x41]) = .ok (.i16 127 127 true) ∧
    decode (.control .nomod [0x13, 0xF0]) = .ok (.ui true) ∧
    decode (.control .m8 [0xFF]) = .ok (.uother 0xFF) ∧
    decode (.control .m128 [0x01, 0xFF, 0x00]) = .ok (.raw .m128 [0x01, 0xFF, 0x00]) := by decide

theorem witness_StepPerformsTheDecodedInstruction :
    (offerEvent base (.item (.request [0x40, 1]))).inbox = .item (.request [0x40, 1]) :: [] ∧
    decode (.request [0x40, 1]) = .ok (.fenc 1) ∧
    (offerEvent base (.item (.request []))).inbox = .item (.request []) :: [] ∧
    decode (.request [0x40]) = .error (.badOperands 0x40) ∧
    (offerEvent base (.item (.control .m128 []))).inbox = .item (.control .m128 []) :: [] ∧
    ((0xFE : Byte) &&& 0x01 = 0x00 ∧ (0x0D : Byte) &&& 0xF3 = 0x01) ∧
    ([0x82, 0x40, 0x40, 0x40, 0x40, 0x40] : List Byte).length < 7 := by decide

theorem witness_UnassignedCommandCodesAreRefused :
    ∀ c ∈ ([0x00, 0x05, 0x3C, 0x54, 0xFF] : List Byte),
      (offerEvent base (.item (.request [c]))).inbox = .item (.request (c :: [])) :: [] ∧
      c ∉ ([0x01, 0x02, 0x03, 0x04, 0x10, 0x20, 0x21, 0x22, 0x30, 0x31, 0x32, 0x33, 0x34, 0x35, 0x36, 0x37, 0x38,
        0x39, 0x3A, 0x3B, 0x40, 0x41, 0x42, 0x43, 0x44, 0x50, 0x51, 0x52, 0x53] : List Byte) := by decide

theorem witness_HostActsLandBetweenOperations :
    small.inbox = [] ∧
    ((offerEvent small (.setIlen 40)).inbox = .setIlen 40 :: [] ∧ 40 ≤ small.params.lenMax) ∧
    ((offerEvent small (.setIlen 41)).inbox = .setIlen 41 :: [] ∧ small.params.lenMax < 41) ∧
    ((offerEvent small (.driveTime (some 255))).inbox = .driveTime (some 255) :: [] ∧ 255 < 2 ^ small.params.tsW) ∧
    ((offerEvent small (.driveTime (some 256))).inbox = .driveTime (some 256) :: [] ∧ 2 ^ small.params.tsW ≤ 256) ∧
    (offerEvent small (.driveTime none)).inbox = .driveTime none :: [] := by decide

theorem witness_HostWritesToIbufReadBack :
    ((offerEvent small (.writeIbuf 39 [0x41])).inbox = .writeIbuf 39 [0x41] :: [] ∧
      39 + [(0x41 : Byte)].length ≤ small.params.lenMax ∧ Memory.wf small.ibuf = true) ∧
    ((offerEvent small (.writeIbuf 39 [0x41, 0x42])).inbox = .writeIbuf 39 [0x41, 0x42] :: [] ∧
      small.params.lenMax < 39 + [(0x41 : Byte), 0x42].length) := by decide

theorem witness_CallsignValidityIsTheSpecs :
    (([0x41, 0x20, 0x20, 0x20, 0x20, 0x20] : List Ch).length = 6 ∧
      (∀ x ∈ ([0x41, 0x20, 0x20, 0x20, 0x20, 0x20] : List Ch).take 1, CallChar x) ∧
      (∀ x ∈ ([0x41, 0x20, 0x20, 0x20, 0x20, 0x20] : List Ch).drop 1, x = 0x20)) ∧
    (vk4bwi.length = 6 ∧ (∀ x ∈ vk4bwi.take 6, CallChar x) ∧ (∀ x ∈ vk4bwi.drop 6, x = 0x20)) ∧
    validCall [0x5A] = true ∧ validCall vk4bwi = true := by unfold CallChar; decide

theorem witness_AddressEncodesToSevenOctets :
    (validCall [0x5A] = true ∧ ([0x5A] : List Ch).length ≤ 1 ∧ ([0x5A] : List Ch)[0]? = some 0x5A) ∧
    (validCall vk4bwi = true ∧ vk4bwi[5]? = some 0x49) := by decide

theorem witness_AddressCodecRoundTrips :
    Address.valid ⟨vk4bwi, 15, true, 3, true⟩ = true ∧
    addrDec7 [0xAD, 0x96, 0x68, 0x84, 0xAE, 0x92, 0xE0] = .ok ⟨vk4bwi, 0, true, 3, false⟩ ∧
    addrDec7 [0x82, 0x40, 0x40, 0x40, 0x40, 0x40, 0xFF] = .ok ⟨[0x41], 15, true, 3, true⟩ := by decide

theorem witness_AmkMakesAnAddress :
    GoodCall vk4bwi 15 ∧ GoodCall [0x30] 0 ∧ ¬ GoodCall [] 0 ∧ ¬ GoodCall (vk4bwi ++ [0x41]) 0 ∧
    ¬ GoodCall [0x41] 16 ∧ ¬ GoodCall [0x61] 0 ∧ ¬ GoodCall [0x3A] 0 := by
  refine ⟨?_, ?_, ?_, ?_, ?_, ?_, ?_⟩ <;> (unfold GoodCall CallChar; decide)

theorem witness_AdecDecodesTheBlockAtAnOffset :
    ((withInput small headC).ilen < (some 8).getD 0 + 7) ∧
    ((some 7).getD 0 + 7 ≤ (withInput small headC).ilen ∧
      valid6 (blockChars ((withInput small headC).memRead ((some 7).getD 0) 7)) = true) ∧
    ((none : Option Nat).getD 0 + 7 ≤ (zeros 7).ilen ∧
      valid6 (blockChars ((zeros 7).memRead ((none : Option Nat).getD 0) 7)) = false) := by decide

theorem witness_AencWritesSevenOctets : Good edge.dest ∧ 15 ≤ (lenMaxIs 15 small).params.lenMax := by
  unfold Good GoodCall CallChar; decide

theorem witness_AstrWritesTheAddressText : Good edge.src ∧ 15 ≤ (lenMaxIs 15 small).params.lenMax := by
  unfold Good GoodCall CallChar; decide

theorem witness_BareAddressesAndRawRegionsArePerformed :
    valid6 (blockChars [0x82, 0x40, 0x40, 0x40, 0x40, 0x40, 0xFF]) = true ∧
    valid6 (blockChars [0x40, 0x40, 0x40, 0x40, 0x40, 0x40, 0x60]) = false ∧
    Fallback .nomod [0x00] := ⟨by decide, by decide, .inr (.inl (by decide))⟩

theorem witness_MalformedOperandsAreAnsweredAsAmkAnswers :
    (¬ Good badEmpty ∧ ¬ Good badSsid) ∧
    (edge.d < small.slots.length ∧ badSsid :: edge.src :: edge.rpt = [] ++ badSsid :: (edge.src :: edge.rpt)) ∧
    (edge.dest :: edge.src :: [edge.dest, badEmpty] = [edge.dest, edge.src, edge.dest] ++ badEmpty :: [] ∧
      ∀ y ∈ [edge.dest, edge.src, edge.dest], Good y) := by unfold Good GoodCall CallChar; decide

theorem witness_ControlFieldCodecRoundTrips :
    (Needs (.ui true) .nomod ∧ Needs (.i8 7 7 true) .m8 ∧ Needs (.s8 .srej 7 true) .m8 ∧
      Needs (.i16 127 127 true) .m128 ∧ Needs (.s16 .srej 127 true) .m128) ∧
    ctlDec [0xFE, 0xFF] .m128 = .ok (.claim (.i16 127 127 true) 2) ∧
    ctlDec [0x13, 0xF0] .nomod = .ok (.claim (.ui true) 1) := ⟨⟨trivial, rfl, rfl, rfl, rfl⟩, by decide⟩

theorem witness_CclsReportsClassAndClaim :
    (Selects none .nomod ∧ Selects (some 0) .nomod ∧ Selects (some 1) .m8 ∧ Selects (some 2) .m128) ∧
    ((zeros 1).ilen < (some 1).getD 0 + 1) ∧
    ((some 39).getD 0 + 1 ≤ (zeros 40).ilen ∧
      ctlDec ((zeros 40).memRead 39 1) .m128 = .error (.raise (.insufficientData .secondControlOctet)) ∧
      ctlDec ((zeros 40).memRead 39 1) .nomod = .ok .unrecognised) := by unfold Selects; decide

theorem witness_InformationFormats : (0xFE : Byte) &&& 0x01 = 0x00 ∧ (0x00 : Byte) &&& 0x01 = 0x00 := by decide

theorem witness_SupervisoryFormatsModulo8 :
    (0xF1 : Byte) &&& 0x0F = 0x01 ∧ (0xF5 : Byte) &&& 0x0F = 0x05 ∧ (0x09 : Byte) &&& 0x0F = 0x09 ∧
    (0xFD : Byte) &&& 0x0F = 0x0D := by decide

theorem witness_SupervisoryFormatsModulo128 :
    (0x11 : Byte).extractLsb' 0 4 = (0x01 : Byte).extractLsb' 0 4 ∧ (0x11 : Byte).extractLsb' 4 4 ≠ 0 ∧
    (0xFD : Byte).extractLsb' 0 4 = (0x0D : Byte).extractLsb' 0 4 ∧ (0xFD : Byte).extractLsb' 4 4 ≠ 0 := by decide

theorem witness_UnnumberedFormats :
    (0x13 : Byte) &&& 0xEF = 0x03 ∧
    ((0xFF : Byte) &&& 0x03 = 0x03 ∧ (0xFF : Byte) &&& 0xEF ≠ 0x03) ∧
    ((0x07 : Byte) &&& 0x03 = 0x03 ∧ (0x07 : Byte) &&& 0xEF ≠ 0x03) := by decide

theorem witness_ScanFindsTheBlockMarkedLast :
    scanAddresses (headC ++ [0x03]) = .ok 2 ∧
    scanAddresses headC = .error (.raise (.insufficientData .controlOctet)) := by decide

/-- `HDRc` with one repeater, the block `blk`. -/
def headWith (blk : List Byte) : List Byte :=
  (headC.take 13) ++ [0x60] ++ blk ++ [0x03, 0xF0]

theorem witness_ParseRawReadsEveryBlockInOrder :
    scanAddresses headC = .error (.raise (.insufficientData .controlOctet)) ∧
    (scanAddresses (headWith [0x82, 0x40, 0x40, 0x40, 0x40, 0x40, 0x61]) = .ok 3 ∧ 0 < 3 - 2 ∧ 3 - 2 ≤ 1) ∧
    (scanAddresses (headWith [0x40, 0x40, 0x40, 0x40, 0x40, 0x40, 0x61]) = .ok 3 ∧
      addrDec7 (slice (headWith [0x40, 0x40, 0x40, 0x40, 0x40, 0x40, 0x61]) (7 * 2) 7) =
        .error (.raise (.malformedAddress (.block [0x40, 0x40, 0x40, 0x40, 0x40, 0x40, 0x61]))) ∧
      addrDec7 (slice (headWith [0x40, 0x40, 0x40, 0x40, 0x40, 0x40, 0x61]) (7 * 0) 7) =
        .ok ⟨vk4bwi, 0, true, 3, false⟩ ∧
      addrDec7 (slice (headWith [0x40, 0x40, 0x40, 0x40, 0x40, 0x40, 0x61]) (7 * 1) 7) =
        .ok ⟨vk4msl, 0, false, 3, false⟩) := by decide

theorem witness_UnclaimedRegionsStayRaw :
    Fallback .nomod [0xFF] ∧ Fallback .nomod [0x00] ∧ Fallback .m8 [0x09, 0x80] ∧ Fallback .m128 [0x11] ∧
    Fallback .m128 [0x01, 0x00, 0x00] ∧ promote [0xB1] .nomod = .ok (.raw [0xB1], true) := by
  refine ⟨.inl ?_, .inr (.inl ?_), .inr (.inr (.inl ?_)), .inr (.inr (.inr ⟨?_, ?_, .inl ?_⟩)),
    .inr (.inr (.inr ⟨?_, ?_, .inr ?_⟩)), ?_⟩ <;> decide

theorem witness_PromotionKeepsEveryOctet :
    promote [0x00, 0x11, 0x22] .m8 = .ok (.i8 0 0 false 0x11 [0x22], false) ∧
    promote [0xB1] .m128 = .ok (.raw [0xB1], true) := by decide

theorem witness_TruncationIsAlwaysInsufficientData :
    ((after (exec (.fdecb 1 none) (withInput small (headC ++ [0x03, 0xF0])))).map (fun t => (t.resp, t.slots[1]?)) =
        some (.ok .unit, some (some (frameC (.ui false 0xF0 []) 7 none))) ∧
      14 < 7 * ((frameC (.ui false 0xF0 []) 7 none).rpt.length + 2) + 1) ∧
    (1 < (withInput small headC).slots.length ∧ Selects (some 2) .m128 ∧
      scanAddresses ((withInput small headC).memRead 0 14) = .error (.raise (.insufficientData .controlOctet))) := by
  unfold Selects; decide

theorem witness_WellFormedOctetsRoundTrip :
    wellFormedOctets 0 (headC ++ [0x03, 0xF0]) .nomod = true ∧
    wellFormedOctets 1 (headWith [0x82, 0x40, 0x40, 0x40, 0x40, 0x40, 0x61]) .m128 = true ∧
    wellFormedOctets 0 (headC ++ [0x01, 0x00, 0x00]) .m128 = true := by decide

theorem witness_ValidFramesRoundTrip :
    (validFrame ⟨40, 2, 8⟩ (frameC (.raw [0xB1]) 0 none) = true ∧ Matches (.raw [0xB1]) .m128) ∧
    (validFrame ⟨40, 2, 8⟩ (frameC (.ui true 0xFF (List.replicate 24 0)) 0 none) = true ∧
      Matches (.ui true 0xFF (List.replicate 24 0)) .nomod) ∧
    (validFrame ⟨16, 0, 8⟩ (frameR (.s16 .srej 127 true) 0 none) = true ∧ Matches (.s16 .srej 127 true) .m128) := by
  refine ⟨⟨by decide, .inr (.inr (.inr ⟨?_, ?_, .inl ?_⟩))⟩, ⟨by decide, trivial⟩, by decide, rfl⟩ <;> decide

/-- What `parse_raw` makes of `HDRc`, `UI` and a PID. -/
def partsC : RawParts := ⟨⟨vk4bwi, 0, true, 3, false⟩, ⟨vk4msl, 0, false, 3, true⟩, [], [0x03, 0xF0]⟩

theorem witness_FparseWritesARawFrame :
    small.slots.length ≤ 2 ∧
    (1 < small.slots.length ∧ parseRaw small.params.rptMax (small.memRead 0 small.ilen) =
      .error (.raise (.insufficientData .addressBlock))) ∧
    parseRaw small.params.rptMax ((withInput small (headC ++ [0x03, 0xF0])).memRead 0 16) = .ok partsC := by decide

theorem witness_FdecbParsesThenPromotes :
    (small.slots.length ≤ 2 ∧ 1 < small.slots.length ∧ Selects (some 2) .m128) ∧
    parseRaw small.params.rptMax (small.memRead 0 small.ilen) = .error (.raise (.insufficientData .addressBlock)) ∧
    (parseRaw small.params.rptMax ((withInput small (headC ++ [0x03, 0xF0])).memRead 0 16) = .ok partsC ∧
      promote partsC.payload .m128 = .ok (.ui false 0xF0 [], false)) ∧
    promote [0x00, 0x00] .m128 = .error (.raise (.insufficientData .pid)) := by unfold Selects; decide

theorem witness_FdecfPromotesTheFrameOfASlot :
    (small.slots.length ≤ 2 ∧ 1 < small.slots.length ∧ Selects none .nomod ∧ small.slots[0]? = some none) ∧
    (withFrame small 0 (frameC (.raw [0x03]) 0 none)).slots[0]? = some (some (frameC (.raw [0x03]) 0 none)) ∧
    promote [0x03] .nomod = .error (.raise (.insufficientData .pid)) ∧
    promote [0x03, 0xF0] .nomod = .ok (.ui false 0xF0 [], false) ∧
    (∀ p, (frameC (.ui true 0xF0 []) 0 none).body ≠ .raw p) := by
  unfold Selects; exact ⟨by decide, by decide, by decide, by decide, fun p h => by cases h⟩

theorem witness_common : CommonOk small edge := by unfold CommonOk Good GoodCall CallChar; decide

theorem witness_MkrawBuildsARawFrame :
    CommonOk (zeros 12) edge ∧ 1 ≤ (zeros 12).ilen ∧ Fits (zeros 12) edge (zeros 12).ilen :=
  ⟨witness_common, by unfold Fits; decide⟩

theorem witness_MkuiBuildsAnUnnumberedInformationFrame :
    CommonOk (zeros 10) edge ∧ (some 1).getD 0 ≤ 1 ∧ Fits (zeros 10) edge (2 + (zeros 10).ilen) :=
  ⟨witness_common, by unfold Fits; decide⟩

theorem witness_MkiBuildsInformationFrames :
    (CommonOk (zeros 10) edge ∧ Fits (zeros 10) edge (2 + (zeros 10).ilen)) ∧
    (CommonOk (zeros 9) edge ∧ Fits (zeros 9) edge (3 + (zeros 9).ilen)) := by
  refine ⟨⟨witness_common, ?_⟩, witness_common, ?_⟩ <;> (unfold Fits; decide)

theorem witness_MkBuildsSupervisoryFramesModulo8 :
    CommonOk (lenMaxIs 29 small) edge ∧ Fits (lenMaxIs 29 small) edge 1 :=
  ⟨witness_common, by unfold Fits; decide⟩

theorem witness_MkBuildsSupervisoryFramesModulo128 :
    CommonOk (lenMaxIs 30 small) edge ∧ Fits (lenMaxIs 30 small) edge 2 :=
  ⟨witness_common, by unfold Fits; decide⟩

/-- The bad slot, one repeater too many, a timestamp and a deadline one above their range, and a frame one octet too
long for each constructor; the ranges of the fields are met at the statement's own edges (8, 128, 2, 256). -/
theorem witness_ConstructorsAreRefusedInOrder :
    small.slots.length ≤ { edge with d := 2 }.d ∧
    small.params.rptMax < { edge with rpt := edge.rpt ++ [edge.dest] }.rpt.length ∧
    (∀ x ∈ edge.rpt ++ [edge.dest], Good x) ∧
    (∃ v ∈ { edge with ts := some 256 }.ts, 2 ^ small.params.tsW ≤ v) ∧
    (∃ v ∈ { edge with dl := some 256 }.dl, 2 ^ small.params.tsW ≤ v) ∧
    (CommonOk small edge ∧ small.ilen = 0) ∧
    (CommonOk (zeros 13) edge ∧ ¬ Fits (zeros 13) edge (zeros 13).ilen ∧ ¬ Fits (zeros 13) edge (2 + (zeros 13).ilen) ∧
      ¬ Fits (zeros 13) edge (3 + (zeros 13).ilen)) ∧
    (CommonOk (lenMaxIs 28 small) edge ∧ ¬ Fits (lenMaxIs 28 small) edge 1 ∧ ¬ Fits (lenMaxIs 28 small) edge 2) := by
  refine ⟨by decide, by decide, by unfold Good GoodCall CallChar; decide, ⟨256, rfl, by decide⟩, ⟨256, rfl, by decide⟩,
    ⟨witness_common, rfl⟩, ⟨witness_common, ?_⟩, witness_common, ?_⟩ <;> (unfold Fits; decide)

theorem witness_EncodingFitsAndIgnoresMetadata :
    validFrame ⟨16, 0, 8⟩ (frameR (.s16 .srej 127 true) 0 none) = true ∧
    semEq (frameC (.ui true 0xF0 []) 0 none) (frameC (.ui true 0xF0 []) 255 (some 9)) = true := by decide

/-- The states in which an operation on one slot finds no slot, an empty one, and a valid frame. -/
theorem witness_FencWritesTheFramesOctets :
    small.slots.length ≤ 2 ∧ small.slots[1]? = some none ∧
    (busy.slots[1]? = some (some (frameC (.ui true 0xF0 [0x41]) 255 (some 255))) ∧
      validFrame busy.params (frameC (.ui true 0xF0 [0x41]) 255 (some 255)) = true) := by decide

theorem witness_FcpyCopiesEveryField :
    (small.slots.length ≤ 2) ∧ (0 < small.slots.length ∧ small.slots[1]? = some none) ∧
    (0 < busy.slots.length ∧ busy.slots[1]? = some (some (frameC (.ui true 0xF0 [0x41]) 255 (some 255)))) := by decide

/-- The longest text, 19 octets, at `LEN_MAX` 19 and 18. -/
def longNames : Frame :=
  ⟨⟨vk4bwi, 15, true, 3, false⟩, ⟨vk4msl, 10, false, 3, true⟩, [], 0, none, .s8 .rr 0 false⟩

theorem witness_FstrWritesSourceAndDestination :
    small.slots.length ≤ 2 ∧ small.slots[1]? = some none ∧
    ((withFrame (lenMaxIs 19 small) 1 longNames).slots[1]? = some (some longNames) ∧
      validFrame (lenMaxIs 19 small).params longNames = true ∧
      (addressText longNames.src.call longNames.src.ssid.toNat ++ [0x3E] ++
        addressText longNames.dest.call longNames.dest.ssid.toNat).length ≤ (lenMaxIs 19 small).params.lenMax ∧
      (lenMaxIs 18 small).params.lenMax < (addressText longNames.src.call longNames.src.ssid.toNat ++ [0x3E] ++
        addressText longNames.dest.call longNames.dest.ssid.toNat).length) := by decide

theorem witness_slot_operations :
    small.slots.length ≤ 2 ∧ 1 < small.slots.length ∧ small.slots[1]? = some none ∧
    busy.slots[1]? = some (some (frameC (.ui true 0xF0 [0x41]) 255 (some 255))) := by decide

theorem witness_FgetReturnsTheRecord :
    small.slots.length ≤ 2 ∧ small.slots[1]? = some none ∧ (busy.slots[1]?).isSome = true := by decide

theorem witness_FfreeEmptiesTheSlot : small.slots.length ≤ 2 ∧ 1 < small.slots.length := by decide

theorem witness_GettsReturnsTheTimestamp :
    small.slots.length ≤ 2 ∧ small.slots[1]? = some none ∧
    busy.slots[1]? = some (some (frameC (.ui true 0xF0 [0x41]) 255 (some 255))) := by decide

theorem witness_SettsWritesTheTimestamp :
    small.slots.length ≤ 2 ∧ small.slots[1]? = some none ∧
    (busy.slots[1]? = some (some (frameC (.ui true 0xF0 [0x41]) 255 (some 255))) ∧
      2 ^ busy.params.tsW ≤ 256 ∧ 255 < 2 ^ busy.params.tsW) := by decide

theorem witness_GetdlReturnsTheDeadline :
    small.slots.length ≤ 2 ∧ small.slots[1]? = some none ∧
    busy.slots[1]? = some (some (frameC (.ui true 0xF0 [0x41]) 255 (some 255))) := by decide

theorem witness_SetdlWritesTheDeadlineOnce :
    small.slots.length ≤ 2 ∧ small.slots[1]? = some none ∧
    (busy.slots[1]? = some (some (frameC (.ui true 0xF0 [0x41]) 255 (some 255))) ∧
      2 ^ busy.params.tsW ≤ 256 ∧ 255 < 2 ^ busy.params.tsW ∧
      (frameC (.ui true 0xF0 [0x41]) 255 (some 255)).dl ≠ none) ∧
    ((withFrame small 1 (frameC (.ui true 0xF0 [0x41]) 0 none)).slots[1]? =
      some (some (frameC (.ui true 0xF0 [0x41]) 0 none)) ∧ (frameC (.ui true 0xF0 [0x41]) 0 none).dl = none) := by
  decide

theorem witness_ASetDeadlineNeverChanges :
    (after (execSetdl 1 9 busy)).isSome = true ∧ (after (execSetts 1 9 busy)).isSome = true ∧
    busy.slots[1]? = some (some (frameC (.ui true 0xF0 [0x41]) 255 (some 255))) ∧
    (∀ i ∈ [Instr.setdl 1 9, .setts 1 9, .ffree 0], replacedSlot i ≠ some 1) ∧
    (after (perform [Instr.setdl 1 9, .setts 1 9, .ffree 0] busy)).map (fun t => t.slots[1]?) =
      some (some (some (frameC (.ui true 0xF0 [0x41]) 9 (some 255)))) := by decide

theorem witness_BuffersAreWrittenOnlyByTheirWriters :
    exec (.getts 1) small = .next (stopped small (.refuse .emptySlot)) ∧ producesOctets (.getts 1) = false :=
  ⟨rfl, rfl⟩

theorem witness_SlotsChangeInFourWaysOnly :
    exec (.ffree 2) busy = .next (stopped busy (.refuse .badSlot)) ∧
    (∀ r, (stopped busy (.refuse .badSlot)).resp ≠ .ok r) ∧
    (after (exec (.ffree 1) busy)).isSome = true := ⟨rfl, (fun r h => by cases h), by decide⟩

theorem witness_UcfMarksUnclaimedControlFieldsOnly :
    seen (exec (.fdecb 1 none) (withInput small (headC ++ [0xB1]))) = some (0x18, .ok .unit) ∧
    seen (exec (.ccls none (some 2)) (withInput small [0xB1])) =
      some (0x08, .ok (.classified .supervisory .unrecognised)) ∧
    seen (exec (.raw .nomod [0x00]) small) = some (0x08, .ok (.promoted (.raw [0x00]))) ∧
    (0x18 : BitVec 8).getLsbD 3 = true ∧ (0x08 : BitVec 8).getLsbD 3 = true := by decide

theorem witness_TimeIsReadOnlyToDefaultATimestamp :
    (¬ samplesTime (.ccls none none) ∧ (after (exec (.ccls none none) small)).isSome = true) ∧
    (¬ samplesTime (.mkrr8 edge 7 none) ∧ (after (exec (.mkrr8 edge 7 none) small)).isSome = true) ∧
    (samplesTime (.mkrr8 (mk true none none) 7 none) ∧
      seen (exec (.mkrr8 (mk true none none) 7 none) small) = some (0x50, .ok .unit)) ∧
    (samplesTime (.fparse 2) ∧ seen (exec (.fparse 2) small) = some (0x07, .refused .badSlot)) := by
  exact ⟨⟨fun h => h, by decide⟩, ⟨fun h => by simp [samplesTime, edge] at h, by decide⟩, ⟨rfl, by decide⟩,
    trivial, by decide⟩

theorem witness_EveryStepKeepsTheInvariant : busy.Inv ∧ (after (step busy)).isSome = true := by
  refine ⟨⟨by decide, by decide, by decide, by decide, by decide, by decide, by decide, by decide, ?_⟩, by decide⟩
  intro a
  have h := Memory.get_ofOctets [0x41] 0 a
  have hb : busy.obuf = Memory.ofOctets 0 [0x41] := rfl
  rw [hb, h]
  cases a <;> simp [busy]

theorem witness_ResetLeavesTheSpecsState :
    (offerEvent busy .reset).inbox = .reset :: busy.inbox := rfl

end Sys2Proof.Tests
end

section
/-! Proofs about one step: what each act of the host does (00_scope.md R4, R5, R13), and how every operation ends
(60_exceptions.md R266). -/

namespace Sys2Proof.Machine

open Sys2Proof.Claims

/-! ## How an operation ends -/

/-- The model's stop is R266 as the statements write it out. -/
theorem State.stop_eq_stopped (s : State) (e : Stop) : s.stop e = stopped s e := by
  cases e with
  | raise f => cases f <;> simp [State.stop, stopped, stopStatus, stopCode, faultCode, statusWord, stopResponse]
  | refuse r => simp [State.stop, stopped, stopStatus, stopCode, statusWord, stopResponse]

/-- The host's queue takes no part in a stop. -/
theorem stop_setInbox (s : State) (rest : List HostEvent) (e : Stop) :
    { s with inbox := rest }.stop e = { stopped s e with inbox := rest } := by
  rw [← State.stop_eq_stopped]; rfl

/-- `ERR` is 0 after every `ok`, whatever `UCF` and `VAR` are (R29). -/
@[simp] theorem okStatus_err (ucf : Bool) (var : BitVec 4) : (okStatus ucf var).extractLsb' 0 3 = 0 := by
  revert ucf var; decide

/-- Settles O53: of the seven ways of `exec_cases`, the first is the stop and the others end with an answer. -/
theorem everyOperationEndsInOneOutcome : Obligations.EveryOperationEndsInOneOutcome := by
  intro i s
  obtain ⟨t, ht, hcases⟩ := exec_cases i s
  refine ⟨t, ht, ?_⟩
  obtain ⟨e, rfl⟩ | ⟨u, c, r, rfl⟩ | ⟨r, -, -, rfl⟩ | ⟨d, f, u, -, -, -, rfl | rfl⟩ | ⟨d, -, -, rfl⟩ |
    ⟨src, v, f, -, -, -, rfl⟩ | ⟨src, v, f, -, -, -, -, rfl⟩ := hcases
  case inl => exact .inr ⟨e, s.stop_eq_stopped e⟩
  all_goals exact .inl ⟨_, rfl, okStatus_err _ _⟩

/-! ## What a step takes from the host -/

theorem step_of_inbox_nil {s : State} (h : s.inbox = []) : step s = .next s := by
  simp [step, takeEvent, h]

theorem step_of_decode_ok {s : State} {it : Item} {rest : List HostEvent} {i : Instr}
    (h : s.inbox = .item it :: rest) (hi : decode it = .ok i) : step s = exec i { s with inbox := rest } := by
  simp [step, takeEvent, h, hi]

/-- An input that decodes to no instruction is answered by the stop of its decode error. -/
theorem step_of_decode_error {s : State} {it : Item} {rest : List HostEvent} {e : DecodeError}
    (h : s.inbox = .item it :: rest) (he : decode it = .error e) :
    step s = .next { stopped s (undecodableStop e) with inbox := rest } := by
  simp [step, takeEvent, h, he, stop_setInbox]

theorem step_of_writeIbuf {s : State} {off : Nat} {octets : List Byte} {rest : List HostEvent}
    (h : s.inbox = .writeIbuf off octets :: rest) : step s = hostWriteIbuf off octets { s with inbox := rest } := by
  simp [step, takeEvent, h]

theorem step_of_setIlen {s : State} {n : Nat} {rest : List HostEvent} (h : s.inbox = .setIlen n :: rest) :
    step s = hostSetIlen n { s with inbox := rest } := by
  simp [step, takeEvent, h]

theorem step_of_driveTime {s : State} {v : Option Nat} {rest : List HostEvent}
    (h : s.inbox = .driveTime v :: rest) : step s = hostDriveTime v { s with inbox := rest } := by
  simp [step, takeEvent, h]

/-- Whatever the host sends to be performed, the machine goes on (R5). -/
theorem step_of_item_next {s : State} {it : Item} {rest : List HostEvent} (h : s.inbox = .item it :: rest) :
    ∃ t, step s = .next t := by
  cases hd : decode it with
  | ok i =>
    obtain ⟨t, ht, -⟩ := exec_cases i { s with inbox := rest }
    exact ⟨t, (step_of_decode_ok h hd).trans ht⟩
  | error e => exact ⟨_, step_of_decode_error h hd⟩

/-! ## Inputs that decode to no instruction -/

/-- An octet that begins a 16-bit control field (bit 0 clear, or bits 7:4 clear and bits 1:0 `01`) is claimed by no
unnumbered row and, alone, is no raw region (R90, R93). -/
theorem sixteenBit_octet_unclaimed (c0 : Byte) (h : c0 &&& 0x01 = 0x00 ∨ c0 &&& 0xF3 = 0x01) :
    readRow ctlURows c0 = none ∧ rawRegion .m128 [c0] = false := by
  have masks : c0 &&& 0xEF ≠ 0x03 ∧ c0 &&& 0x03 ≠ 0x03 ∧ (c0 &&& 0x03 = 0x01 → c0 &&& 0xF0 = 0x00) := by
    revert c0; decide
  obtain ⟨hui, hu, hs⟩ := masks
  constructor
  · simpa [readRow, ctlURows] using And.intro hui hu
  · simpa [rawRegion] using fun _ => hs

/-- A 16-bit control field without its second octet is rejected as such (R142). -/
theorem decode_shortControl (c0 : Byte) (h : c0 &&& 0x01 = 0x00 ∨ c0 &&& 0xF3 = 0x01) :
    decode (.control .m128 [c0]) = .error .shortControl := by
  obtain ⟨hrow, hraw⟩ := sixteenBit_octet_unclaimed c0 h
  simp [decode, decodeControl, hrow, hraw]

theorem decode_shortAddress {o : List Byte} (h : o.length < 7) :
    decode (.address o) = .error (.shortAddress o.length) := by
  simp [decode, h]

/-- Settles O4: each clause is the decoder's answer on that input, carried through the step. -/
theorem stepPerformsTheDecodedInstruction : Obligations.StepPerformsTheDecodedInstruction := by
  intro s it rest h
  refine ⟨fun i hi => step_of_decode_ok h hi, ?_, fun c hc => step_of_decode_error h hc, ?_, ?_, ?_,
    step_of_item_next h⟩
  · rintro rfl
    exact step_of_decode_error (e := .noOctets) h rfl
  · rintro m rfl
    exact step_of_decode_error (e := .noControl) h rfl
  · rintro c0 rfl hc
    exact step_of_decode_error h (decode_shortControl c0 hc)
  · rintro o rfl ho
    exact step_of_decode_error h (decode_shortAddress ho)

/-! ## The host's acts other than inputs -/

theorem hostSetIlen_inside {s : State} {n : Nat} (h : n ≤ s.params.lenMax) :
    hostSetIlen n s = .next { s with ilen := n } := if_neg (Nat.not_lt.2 h)

theorem hostSetIlen_above {s : State} {n : Nat} (h : s.params.lenMax < n) :
    hostSetIlen n s = .fault .ilenAboveLenMax := if_pos h

theorem hostDriveTime_fits {s : State} {v : Nat} (h : v < 2 ^ s.params.tsW) :
    hostDriveTime (some v) s = .next { s with time := some v } := if_neg (Nat.not_le.2 h)

theorem hostDriveTime_tooWide {s : State} {v : Nat} (h : 2 ^ s.params.tsW ≤ v) :
    hostDriveTime (some v) s = .fault .timeTooWide := if_pos h

/-- Settles O6: the step takes the act, and the act tests its bound. -/
theorem hostActsLandBetweenOperations : Obligations.HostActsLandBetweenOperations := by
  intro s rest
  refine ⟨step_of_inbox_nil, ?_, ?_, ?_, ?_, ?_⟩
  · intro n h hn
    exact (step_of_setIlen h).trans (hostSetIlen_inside hn)
  · intro n h hn
    exact (step_of_setIlen h).trans (hostSetIlen_above hn)
  · intro v h hv
    have held : ({ s with inbox := rest, time := some v } : State).timeNow = v :=
      (timeNow_held _ v rfl).trans (Nat.mod_eq_of_lt hv)
    exact ⟨_, (step_of_driveTime h).trans (hostDriveTime_fits hv), rfl, held⟩
  · intro v h hv
    exact (step_of_driveTime h).trans (hostDriveTime_tooWide hv)
  · intro h
    exact ⟨_, step_of_driveTime h, rfl, rfl⟩

/-! ## Octets written to `IBUF` -/

theorem hostWriteIbuf_inside {s : State} {off : Nat} {octets : List Byte}
    (h : off + octets.length ≤ s.params.lenMax) :
    hostWriteIbuf off octets s = .next { s with ibuf := Memory.store s.ibuf off octets } := if_neg (Nat.not_lt.2 h)

theorem hostWriteIbuf_outside {s : State} {off : Nat} {octets : List Byte}
    (h : s.params.lenMax < off + octets.length) : hostWriteIbuf off octets s = .fault .ibufOutOfRange := if_pos h

/-- `MemRead` gives the octets the memory holds (R11). -/
theorem State.memRead_of_get {s : State} {off : Nat} {octets : List Byte}
    (h : ∀ k, k < octets.length → Memory.get s.ibuf (off + k) = octets[k]?) :
    s.memRead off octets.length = octets := by
  refine List.ext_getElem (s.memRead_length off _) fun k _ hk => ?_
  have hget : Memory.get s.ibuf (off + k) = some octets[k] := (h k hk).trans (List.getElem?_eq_getElem hk)
  simp [State.memRead, s.ibufOctet_of_get _ _ hget]

/-- An octet of `IBUF` depends on the memory at its offset alone. -/
theorem State.ibufOctet_congr {s t : State} {a : Nat} (h : Memory.get t.ibuf a = Memory.get s.ibuf a) :
    t.ibufOctet a = s.ibufOctet a := by
  simp [State.ibufOctet, h]

/-- Settles O7: every part is `Memory.get_store`, read inside the run or outside it. -/
theorem hostWritesToIbufReadBack : Obligations.HostWritesToIbufReadBack := by
  intro s off octets rest h
  have hget := Memory.get_store octets s.ibuf off
  refine ⟨fun hin => ⟨{ s with inbox := rest, ibuf := Memory.store s.ibuf off octets },
    (step_of_writeIbuf h).trans (hostWriteIbuf_inside hin), rfl, Memory.wf_store octets s.ibuf off, ?_, ?_, hget⟩,
    fun hout => (step_of_writeIbuf h).trans (hostWriteIbuf_outside hout)⟩
  · refine State.memRead_of_get fun k hk => ?_
    simp [hget, hk]
  · intro a ha
    exact State.ibufOctet_congr ((hget a).trans (if_neg (by omega)))

end Sys2Proof.Machine
end

section
/-! Proofs about valid frames: what parsing, promotion and assembly give is structurally valid (10_state.md R25, R26;
42_frame_parser.md R170, R171, R173 to R180; 43_frame_assembler.md R200). -/

namespace Sys2Proof.Machine

/-! ## Validity -/

theorem validFrame_iff (p : Params) (f : Frame) : validFrame p f = true ↔
    f.dest.valid = true ∧ f.src.valid = true ∧ f.rpt.all Address.valid = true ∧ f.rpt.length ≤ p.rptMax ∧
      extPositional f = true ∧ bodyValid f.body = true ∧
      14 + 7 * f.rpt.length + (bodyBytes f.body).length ≤ p.lenMax := by
  simp only [validFrame, Bool.and_eq_true, decide_eq_true_eq, and_assoc]

/-- A frame whose body is replaced by a valid one of the same length stays valid. -/
theorem validFrame_withBody {p : Params} {f : Frame} {b : Body} (hf : validFrame p f = true)
    (hb : bodyValid b = true) (hlen : (bodyBytes b).length = (bodyBytes f.body).length) :
    validFrame p { f with body := b } = true := by
  obtain ⟨hdest, hsrc, hrpt, hcount, hext, -, hfits⟩ := (validFrame_iff p f).1 hf
  exact (validFrame_iff p _).2 ⟨hdest, hsrc, hrpt, hcount, hext, hb, hlen ▸ hfits⟩

/-- A slot holds a valid frame with metadata of `TS_W` bits (R20, R240). -/
theorem slotValid_some_iff (p : Params) (f : Frame) :
    slotValid p (some f) = true ↔ validFrame p f = true ∧ f.ts < 2 ^ p.tsW ∧ ∀ v ∈ f.dl, v < 2 ^ p.tsW := by
  cases hdl : f.dl <;> simp [slotValid, metadataFits, hdl]

/-! ## Last-address bits (R25) -/

/-- Each repeater's bit is 1 exactly when no repeater follows it. -/
theorem rptExt_cons (a : Address) (as : List Address) :
    rptExt (a :: as) = (a.ext == as.isEmpty && rptExt as) := by
  cases as <;> simp [rptExt]

theorem placeRptExt_cons (a : Address) (as : List Address) :
    placeRptExt (a :: as) = { a with ext := as.isEmpty } :: placeRptExt as := by
  cases as <;> rfl

@[simp] theorem placeRptExt_length (as : List Address) : (placeRptExt as).length = as.length := by
  induction as with
  | nil => rfl
  | cons a as ih => simp [placeRptExt_cons, ih]

@[simp] theorem placeRptExt_isEmpty (as : List Address) : (placeRptExt as).isEmpty = as.isEmpty := by
  cases as <;> simp [placeRptExt, placeRptExt_cons]

theorem rptExt_placeRptExt (as : List Address) : rptExt (placeRptExt as) = true := by
  induction as with
  | nil => rfl
  | cons a as ih => simp [placeRptExt_cons, rptExt_cons, ih]

/-- The placed bits take no part in an address's validity. -/
@[simp] theorem all_valid_placeRptExt (as : List Address) :
    (placeRptExt as).all Address.valid = as.all Address.valid := by
  induction as with
  | nil => rfl
  | cons a as ih => rw [placeRptExt_cons, List.all_cons, List.all_cons, ih]; rfl

/-! ## Address blocks (R120, R121) -/

theorem validCall_trim {c : List Ch} (h : valid6 c = true) : validCall (trim c) = true := by
  simp only [valid6, Bool.and_eq_true, beq_iff_eq, Bool.not_eq_true', List.isEmpty_eq_false_iff] at h
  obtain ⟨⟨hlen, hne⟩, -⟩ := h
  have hle : (trim c).length ≤ 6 := hlen ▸ (List.takeWhile_sublist isCallChar).length_le
  have hpos : 1 ≤ (trim c).length := List.length_pos_of_ne_nil hne
  have hall : (trim c).all isCallChar = true := List.all_takeWhile
  simp [validCall, hle, hpos, hall]

/-- A block that decodes gives a valid Address, whose `ext` is bit 0 of the seventh octet (R82). -/
theorem addrDec7_ok {o : List Byte} {a : Address} (h : addrDec7 o = .ok a) :
    a.valid = true ∧ a.ext = (octet o 6).getLsbD 0 := by
  by_cases hv : valid6 (blockChars o) = true
  · simp only [addrDec7, hv, if_true, Except.ok.injEq] at h
    subst h
    exact ⟨validCall_trim hv, rfl⟩
  · simp [addrDec7, hv] at h

theorem octet_slice (b : List Byte) (off n i : Nat) (h : i < n) : octet (slice b off n) i = octet b (off + i) := by
  simp [octet, slice, List.getD_eq_getElem?_getD, h]

/-- The last-address bit of block `i` of `b`. -/
def blockExt (b : List Byte) (i : Nat) : Bool := (octet b (7 * i + 6)).getLsbD 0

theorem addrDec7_slice_ok {b : List Byte} {i : Nat} {a : Address} (h : addrDec7 (slice b (7 * i) 7) = .ok a) :
    a.valid = true ∧ a.ext = blockExt b i := by
  obtain ⟨hv, he⟩ := addrDec7_ok h
  exact ⟨hv, he.trans (by rw [octet_slice _ _ _ _ (by omega), blockExt])⟩

/-! ## Phase 1 (R170, R171) -/

/-- The loop stops at the first block marked last, with an octet left after it. -/
theorem scanLoop_ok {b : List Byte} : ∀ (fuel k n : Nat), 0 < k → scanLoop b fuel k = .ok n →
    k ≤ n ∧ 7 * n + 1 ≤ b.length ∧ ∀ i, k ≤ i + 1 → i < n → blockExt b i = decide (i + 1 = n) := by
  intro fuel
  induction fuel with
  | zero => intro k n _ h; simp [scanLoop] at h
  | succ fuel ih =>
    intro k n hk h
    have hlast : blockExt b (k - 1) = (octet b (7 * k - 1)).getLsbD 0 := by
      rw [blockExt, show 7 * (k - 1) + 6 = 7 * k - 1 by omega]
    unfold scanLoop at h
    split at h
    case isTrue hbit =>
      split at h
      · cases h
      · obtain ⟨hkn, hlen, hbits⟩ := ih (k + 1) n (by omega) h
        refine ⟨by omega, hlen, fun i hki hin => ?_⟩
        by_cases hi : i + 1 = k
        · obtain rfl : i = k - 1 := by omega
          rw [hlast, hbit]
          exact (decide_eq_false (by omega)).symm
        · exact hbits i (by omega) hin
    case isFalse hbit =>
      split at h
      · cases h
      · obtain rfl : k = n := by simpa using h
        refine ⟨le_rfl, by omega, fun i hki hin => ?_⟩
        obtain rfl : i = k - 1 := by omega
        rw [hlast]
        simpa [show k - 1 + 1 = k by omega] using hbit

/-- A scan that ends `ok` with `k` found at least two blocks, the last of them alone marked last, and an octet after
them. -/
theorem scanAddresses_ok {b : List Byte} {k : Nat} (h : scanAddresses b = .ok k) :
    2 ≤ k ∧ 7 * k + 1 ≤ b.length ∧ ∀ i, i < k → blockExt b i = decide (i + 1 = k) := by
  unfold scanAddresses at h
  split at h
  · cases h
  · split at h
    · cases h
    · next hdest =>
      obtain ⟨hk, hlen, hbits⟩ := scanLoop_ok _ _ _ (by omega) h
      refine ⟨hk, hlen, fun i hi => ?_⟩
      cases i with
      | zero => simpa [blockExt, show (1 : Nat) ≠ k by omega] using hdest
      | succ i => exact hbits _ (by omega) hi

/-- Blocks of which the last alone is marked last decode to valid repeaters with positional `ext`. -/
theorem decodeBlocks_ok {b : List Byte} : ∀ (n i : Nat) (as : List Address), decodeBlocks b i n = .ok as →
    (∀ j, i ≤ j → j < i + n → blockExt b j = decide (j + 1 = i + n)) →
    as.length = n ∧ as.all Address.valid = true ∧ rptExt as = true := by
  intro n
  induction n with
  | zero => rintro i as ⟨⟩ -; simp [rptExt]
  | succ n ih =>
    intro i as h hbits
    unfold decodeBlocks at h
    split at h
    · cases h
    · next a ha =>
      split at h
      · cases h
      · next rest hrest =>
        obtain rfl : a :: rest = as := by simpa using h
        obtain ⟨hv, he⟩ := addrDec7_slice_ok ha
        obtain ⟨hlen, hvalid, hext⟩ := ih (i + 1) rest hrest fun j h1 h2 =>
          (hbits j (by omega) (by omega)).trans (by congr 2; omega)
        have hempty : a.ext = rest.isEmpty := by
          rw [he, hbits i le_rfl (by omega), ← hlen]
          cases rest <;> simp
        simp [hlen, hv, hvalid, rptExt_cons, hempty, hext]

/-- What phase 1 reads is a valid raw frame, of as many octets as were given. -/
theorem validFrame_of_parseRaw {p : Params} {b : List Byte} {r : RawParts} (h : parseRaw p.rptMax b = .ok r)
    (hb : b.length ≤ p.lenMax) (ts : Nat) : validFrame p (r.frame (.raw r.payload) ts) = true := by
  unfold parseRaw at h
  split at h
  · cases h
  next k hk =>
  split at h
  · cases h
  next hcount =>
  split at h
  · cases h
  next dest hdest =>
  split at h
  · cases h
  next src hsrc =>
  split at h
  · cases h
  next rpt hrpt =>
  obtain rfl : RawParts.mk dest src rpt (b.drop (7 * k)) = r := by simpa using h
  obtain ⟨h2, hlen, hbits⟩ := scanAddresses_ok hk
  obtain ⟨hdv, hde⟩ := addrDec7_slice_ok (i := 0) hdest
  obtain ⟨hsv, hse⟩ := addrDec7_slice_ok (i := 1) hsrc
  obtain ⟨hrl, hrv, hre⟩ := decodeBlocks_ok _ _ _ hrpt fun j _ hj =>
    (hbits j (by omega)).trans (by congr 2; omega)
  have hdext : dest.ext = false := by
    rw [hde, hbits 0 (by omega)]
    exact decide_eq_false (by omega)
  have hsext : src.ext = rpt.isEmpty := by
    rw [hse, hbits 1 (by omega), Bool.eq_iff_iff, decide_eq_true_eq, List.isEmpty_iff_length_eq_zero]
    omega
  refine (validFrame_iff p _).2 ⟨hdv, hsv, hrv, by simp [RawParts.frame]; omega, ?_, ?_, ?_⟩
  · simp [extPositional, RawParts.frame, hdext, hsext, hre]
  · simp [bodyValid, RawParts.frame]; omega
  · simp [bodyBytes, RawParts.frame]; omega

/-! ## Phase 2 (R173 to R180) -/

/-- Promotion of a payload gives a valid body of as many octets, and sets `ucf` on the raw body alone. -/
theorem promote_ok {p : List Byte} {m : Modulus} {b : Body} {ucf : Bool} (h : promote p m = .ok (b, ucf)) :
    bodyValid b = true ∧ (bodyBytes b).length = p.length ∧ (ucf = true → b = .raw p) := by
  have hne : p ≠ [] := by rintro rfl; simp [promote, ctlDec] at h
  have hraw : bodyValid (.raw p) = true := by simpa [bodyValid] using hne
  unfold promote at h
  split at h
  case h_1 => cases h
  case h_2 => cases h; exact ⟨hraw, rfl, fun _ => rfl⟩
  case h_4 | h_5 =>
    split at h
    · cases h; exact ⟨hraw, rfl, fun _ => rfl⟩
    · next hlen => cases h; exact ⟨rfl, (not_not.1 hlen).symm, nofun⟩
  case h_3 | h_6 | h_7 =>
    split at h
    · cases h
    · next hlen =>
      cases h
      refine ⟨rfl, ?_, nofun⟩
      simp only [bodyBytes, ctlEnc, List.length_append, List.length_cons, List.length_nil, List.length_drop]
      omega

/-- Promotion of a frame of any variant keeps its body valid and of its length, and sets `ucf` on a raw body alone. -/
theorem promoteBody_ok {b b' : Body} {m : Modulus} {ucf : Bool} (h : promoteBody b m = .ok (b', ucf))
    (hb : bodyValid b = true) :
    bodyValid b' = true ∧ (bodyBytes b').length = (bodyBytes b).length ∧ (ucf = true → bodyVariant b' = .raw) := by
  cases b
  case raw p =>
    obtain ⟨hv, hlen, hu⟩ := promote_ok (show promote p m = _ from h)
    exact ⟨hv, hlen, fun h => by rw [hu h]; rfl⟩
  all_goals
    cases h
    exact ⟨rfl, rfl, nofun⟩

/-- What both phases read is a valid frame, and `ucf` is set on a raw one alone. -/
theorem decodeFrame_ok {p : Params} {bs : List Byte} {m : Modulus} {r : RawParts} {body : Body} {ucf : Bool}
    (h : decodeFrame p.rptMax bs m = .ok (r, body, ucf)) (hbs : bs.length ≤ p.lenMax) (ts : Nat) :
    validFrame p (r.frame body ts) = true ∧ (ucf = true → bodyVariant body = .raw) := by
  unfold decodeFrame at h
  split at h
  · cases h
  next r' hr =>
  split at h
  · cases h
  next body' ucf' hpromote =>
  cases h
  obtain ⟨hv, hlen, hu⟩ := promote_ok hpromote
  have hraw := validFrame_of_parseRaw hr hbs ts
  exact ⟨validFrame_withBody (f := r.frame (.raw r.payload) ts) hraw hv hlen, fun h => by rw [hu h]; rfl⟩

/-! ## Assembly (R200) -/

/-- What a constructor assembles from valid parts is valid. -/
theorem validFrame_assemble {s : State} {a : MkArgs} {dest src : Address} {rpt : List Address} {b : Body}
    (hdest : asAddress a.dest = .ok dest) (hsrc : asAddress a.src = .ok src) (hrpt : asAddresses a.rpt = .ok rpt)
    (hcount : a.rpt.length ≤ s.params.rptMax) (hb : bodyValid b = true)
    (hfits : 14 + 7 * a.rpt.length + (bodyBytes b).length ≤ s.params.lenMax) :
    validFrame s.params (assemble s a dest src rpt b) = true := by
  obtain ⟨hlen, hvalid⟩ := asAddresses_valid a.rpt rpt hrpt
  refine (validFrame_iff _ _).2 ⟨asAddress_valid a.dest dest hdest, asAddress_valid a.src src hsrc, ?_, ?_, ?_, hb, ?_⟩
  · simpa [assemble] using hvalid
  · simpa [assemble, hlen] using hcount
  · simp [extPositional, assemble, rptExt_placeRptExt]
  · simpa [assemble, hlen] using hfits

/-- The timestamp given or sampled fits. -/
theorem assemble_ts_lt {s : State} {a : MkArgs} (dest src : Address) (rpt : List Address) (b : Body)
    (hts : ∀ v ∈ a.ts, v < 2 ^ s.params.tsW) : (assemble s a dest src rpt b).ts < 2 ^ s.params.tsW := by
  cases h : a.ts with
  | none => simpa [assemble, h] using timeNow_lt s
  | some v => simpa [assemble, h] using hts v h

end Sys2Proof.Machine
end

section
/-! Proofs about the state as a whole (10_state.md R20, R26, R29, R30, R34, R35; 20_memory.md R50, R56): which fields an
operation writes, and the invariant that the reset state meets and every step keeps. -/

namespace Sys2Proof.Machine

open Sys2Proof.Claims

/-! ## The fields an operation leaves alone -/

/-- No operation writes `IBUF`, `ILEN`, the parameters or the host's side, or changes the number of slots. -/
theorem exec_keeps_host_side {i : Instr} {s t : State} (h : exec i s = .next t) :
    t.ibuf = s.ibuf ∧ t.ilen = s.ilen ∧ t.params = s.params ∧ t.time = s.time ∧ t.inbox = s.inbox ∧
      t.nslot = s.nslot := by
  obtain ⟨t', ht', hcases⟩ := exec_cases i s
  obtain rfl : t' = t := Host.Outcome.next.inj (ht'.symm.trans h)
  obtain ⟨e, rfl⟩ | ⟨u, c, r, rfl⟩ | ⟨r, -, -, rfl⟩ | ⟨d, f, u, -, -, -, rfl | rfl⟩ | ⟨d, -, -, rfl⟩ |
    ⟨src, v, f, -, -, -, rfl⟩ | ⟨src, v, f, -, -, -, -, rfl⟩ := hcases
  all_goals simp [State.nslot]

/-- `OBUF` and `OLEN` stay as they are, or one of the four producers replaced them by octets that fit (R50, R56). -/
theorem exec_obuf {i : Instr} {s t : State} (h : exec i s = .next t) :
    (t.obuf = s.obuf ∧ t.olen = s.olen) ∨
      ∃ r, producesOctets i = true ∧ r.length ≤ s.params.lenMax ∧ t.obuf = Memory.ofOctets 0 r ∧ t.olen = r.length := by
  obtain ⟨t', ht', hcases⟩ := exec_cases i s
  obtain rfl : t' = t := Host.Outcome.next.inj (ht'.symm.trans h)
  obtain ⟨e, rfl⟩ | ⟨u, c, r, rfl⟩ | ⟨r, hp, hr, rfl⟩ | ⟨d, f, u, -, -, -, rfl | rfl⟩ | ⟨d, -, -, rfl⟩ |
    ⟨src, v, f, -, -, -, rfl⟩ | ⟨src, v, f, -, -, -, -, rfl⟩ := hcases
  case inr.inr.inl => exact .inr ⟨r, hp, hr, rfl, rfl⟩
  all_goals exact .inl ⟨rfl, rfl⟩

/-- Settles O54: the two lemmas above; an octet of `IBUF` depends on the memory alone. -/
theorem buffersAreWrittenOnlyByTheirWriters : Obligations.BuffersAreWrittenOnlyByTheirWriters := by
  intro i s t h
  obtain ⟨hibuf, hilen, hparams, htime, hinbox, -⟩ := exec_keeps_host_side h
  refine ⟨hibuf, hilen, hparams, htime, hinbox, fun a => State.ibufOctet_congr (by rw [hibuf]), fun hp => ?_⟩
  obtain ⟨hobuf, holen⟩ | ⟨r, hp', -⟩ := exec_obuf h
  · exact ⟨holen, fun a => by rw [hobuf]⟩
  · simp [hp] at hp'

/-- Settles O55: of the seven ways of `exec_cases`, the first three write no slot and the others end `ok`. -/
theorem slotsChangeInFourWaysOnly : Obligations.SlotsChangeInFourWaysOnly := by
  intro i s t h
  obtain ⟨t', ht', hcases⟩ := exec_cases i s
  obtain rfl : t' = t := Host.Outcome.next.inj (ht'.symm.trans h)
  obtain ⟨e, rfl⟩ | ⟨u, c, r, rfl⟩ | ⟨r, -, -, rfl⟩ | ⟨d, f, u, hd, hfree, -, ht⟩ | ⟨d, hi, -, rfl⟩ |
    ⟨src, v, f, hi, hf, -, rfl⟩ | ⟨src, v, f, hi, hf, -, hdl, rfl⟩ := hcases
  · exact ⟨fun _ => rfl, .inl rfl⟩
  · exact ⟨fun _ => rfl, .inl rfl⟩
  · exact ⟨fun _ => rfl, .inl rfl⟩
  · obtain rfl | rfl := ht
    all_goals exact ⟨fun hr => absurd rfl (hr _), .inr (.inl ⟨d, f, hd, hfree, rfl⟩)⟩
  · exact ⟨fun hr => absurd rfl (hr _), .inr (.inr (.inl ⟨d, hi, rfl⟩))⟩
  · exact ⟨fun hr => absurd rfl (hr _), .inr (.inr (.inr (.inl ⟨src, v, f, hi, hf, rfl⟩)))⟩
  · exact ⟨fun hr => absurd rfl (hr _), .inr (.inr (.inr (.inr ⟨src, v, f, hi, hf, hdl, rfl⟩)))⟩

/-! ## Reset (R34, R290) -/

theorem paramsLegal_iff (s : State) :
    paramsLegal s = true ↔ 2 ≤ s.nslot ∧ 15 ≤ s.params.lenMax ∧ 1 ≤ s.params.tsW := by
  simp [paramsLegal, and_assoc]

theorem statusLegal_reset : statusLegal 0x00 = true := by decide

/-- A block just reset meets the invariant when its parameters are legal (R8). -/
theorem inv_resetWith {p : Params} {nslot : Nat} (h : paramsLegal (State.resetWith p nslot) = true) :
    (State.resetWith p nslot).Inv where
  params := h
  slots v hv := by rw [List.eq_of_mem_replicate hv]; rfl
  status := statusLegal_reset
  ilen := Nat.zero_le _
  olen := Nat.zero_le _
  ibufWf := rfl
  ibufInside := nofun
  obufWf := rfl
  obufExact a := rfl

/-- Settles O59: the suggested defaults of R8 are legal. -/
theorem resetMeetsTheInvariant : Obligations.ResetMeetsTheInvariant :=
  inv_resetWith (by decide)

theorem step_of_reset {s : State} {rest : List HostEvent} (h : s.inbox = .reset :: rest) :
    step s = hostReset { s with inbox := rest } := by
  simp [step, takeEvent, h]

/-- Settles O60: the state of R34, reached from any state by the host's reset act. -/
theorem resetLeavesTheSpecsState : Obligations.ResetLeavesTheSpecsState := by
  have empty (n : Nat) : ∀ v ∈ List.replicate n (none : Option Frame), v = none := fun v => List.eq_of_mem_replicate
  refine ⟨empty _, rfl, rfl, rfl, fun a => ⟨rfl, rfl⟩, fun s rest h => ⟨_, step_of_reset h, ?_⟩⟩
  exact ⟨List.length_replicate, empty _, rfl, rfl, rfl, fun a => ⟨rfl, rfl⟩, rfl, rfl, rfl, rfl⟩

/-! ## `STATUS` (R29) -/

/-- After an `ok`: `VAR` at most 12, and at most 1 beside `UCF`. -/
theorem statusLegal_okStatus {ucf : Bool} {var : BitVec 4} (h : var.toNat ≤ if ucf then 1 else 12) :
    statusLegal (okStatus ucf var) = true := by
  revert ucf var; decide

theorem statusLegal_stopStatus (e : Stop) : statusLegal (stopStatus e) = true := by
  have legal (c : BitVec 3) (h : c = 1 ∨ c = 2 ∨ c = 3 ∨ c = 7) : statusLegal (statusWord c false 0) = true := by
    revert c; decide
  refine legal _ ?_
  obtain (_ | _ | _) | _ := e <;> simp [stopCode, faultCode]

theorem frameCode_le (f : Frame) : (frameCode f).toNat ≤ 12 := by
  unfold frameCode
  cases bodyVariant f.body <;> decide

/-- The code of a delivered frame beside `UCF`: 1 is the raw frame's. -/
theorem frameCode_le_of_ucf {f : Frame} {ucf : Bool} (h : ucf = true → bodyVariant f.body = .raw) :
    (frameCode f).toNat ≤ if ucf then 1 else 12 := by
  cases ucf with
  | false => exact frameCode_le f
  | true => simp [frameCode, h rfl, variantCode]

theorem slotCode_le (v : Option Frame) : (slotCode v).toNat ≤ 12 := by
  cases v with
  | none => exact Nat.zero_le _
  | some f => exact frameCode_le f

/-! ## The part of the invariant an operation has to earn -/

/-- Every slot holds `EMPTY` or a valid frame whose metadata fit. -/
def SlotsValid (s : State) : Prop := ∀ v ∈ s.slots, slotValid s.params v = true

/-- The slots are valid and `STATUS` is legal. -/
def SlotsAndStatus (s : State) : Prop := SlotsValid s ∧ statusLegal s.status = true

theorem SlotsValid.frame {s : State} (hs : SlotsValid s) {i : Nat} {f : Frame} (hf : s.slots[i]? = some (some f)) :
    validFrame s.params f = true ∧ f.ts < 2 ^ s.params.tsW ∧ ∀ v ∈ f.dl, v < 2 ^ s.params.tsW :=
  (slotValid_some_iff _ _).1 (hs _ (List.mem_of_getElem? hf))

theorem SlotsValid.setSlot {s : State} (hs : SlotsValid s) (i : Nat) {v : Option Frame}
    (hv : slotValid s.params v = true) : SlotsValid (s.setSlot i v) := by
  intro w hw
  obtain hw | rfl := List.mem_or_eq_of_mem_set hw
  · exact hs w hw
  · exact hv

theorem SlotsValid.answer {s : State} (hs : SlotsValid s) {ucf : Bool} {var : BitVec 4} (r : Result)
    (h : var.toNat ≤ if ucf then 1 else 12) : SlotsAndStatus (s.answer ucf var r) :=
  ⟨hs, statusLegal_okStatus h⟩

theorem SlotsValid.deliver {s : State} (hs : SlotsValid s) (d : Nat) {f : Frame} {ucf : Bool}
    (hf : validFrame s.params f = true) (hts : f.ts < 2 ^ s.params.tsW) (hdl : ∀ v ∈ f.dl, v < 2 ^ s.params.tsW)
    (hu : ucf = true → bodyVariant f.body = .raw) : SlotsAndStatus (s.deliver d f ucf) :=
  (hs.setSlot d ((slotValid_some_iff _ _).2 ⟨hf, hts, hdl⟩)).answer _ (frameCode_le_of_ucf hu)

/-- The metadata take no part in a frame's validity, so writing them needs their ranges alone (R242, R244). -/
theorem SlotsValid.setMetadata {s : State} (hs : SlotsValid s) {i : Nat} {f : Frame}
    (hf : s.slots[i]? = some (some f)) {ts : Nat} {dl : Option Nat} (hts : ts < 2 ^ s.params.tsW)
    (hdl : ∀ v ∈ dl, v < 2 ^ s.params.tsW) :
    SlotsAndStatus ((s.setSlot i (some { f with ts := ts, dl := dl })).answer false 0 .unit) := by
  obtain ⟨hvalid, -, -⟩ := hs.frame hf
  have hslot := (slotValid_some_iff s.params { f with ts := ts, dl := dl }).2 ⟨hvalid, hts, hdl⟩
  exact (hs.setSlot i hslot).answer _ (Nat.zero_le _)

/-- A stop earns it, so an operation does when its `ok` does. -/
theorem SlotsValid.conclude {s t : State} (hs : SlotsValid s) {r : Except Stop State} (h : conclude s r = .next t)
    (hok : ∀ t', r = .ok t' → SlotsAndStatus t') : SlotsAndStatus t := by
  obtain hr | ⟨e, -, rfl⟩ := (conclude_eq_next s r t).1 h
  · exact hok t hr
  · exact ⟨hs, statusLegal_stopStatus e⟩

theorem SlotsValid.classify {s t : State} (hs : SlotsValid s) {m : Modulus} {p : List Byte}
    (h : classify s m p = .ok t) : SlotsAndStatus t := by
  obtain ⟨dec, -, rfl⟩ := (classify_eq_ok s t m p).1 h
  exact hs.answer _ (Nat.zero_le _)

theorem SlotsValid.classifyField {s t : State} (hs : SlotsValid s) {m : Modulus} {f : ControlField}
    (h : classifyField m f s = .next t) : SlotsAndStatus t :=
  hs.conclude h fun _ => hs.classify

theorem SlotsValid.make {s t : State} (hs : SlotsValid s) {a : MkArgs} {body : Except Stop Body}
    (h : make a body s = .next t) (hbody : ∀ b, body = .ok b → bodyValid b = true) : SlotsAndStatus t := by
  obtain ⟨dest, src, rpt, b, -, hdest, hsrc, hrpt, hcount, hts, hdl, hb, hfits, rfl⟩ | ⟨e, rfl⟩ :=
    make_cases a body s t h
  · have hsampled : SlotsValid (sampled s a) := by simpa [SlotsValid] using hs
    refine hsampled.deliver a.d ?_ ?_ ?_ nofun
    · simpa using validFrame_assemble hdest hsrc hrpt hcount (hbody b hb) hfits
    · simpa using assemble_ts_lt dest src rpt b hts
    · simpa [assemble] using hdl
  · exact ⟨hs, statusLegal_stopStatus e⟩

theorem input_length (s : State) : s.input.length = s.ilen := s.memRead_length 0 s.ilen

/-- A raw payload taken from a buffer that is not empty has an octet (R201). -/
theorem bodyValid_raw_input {s : State} (h : ¬ s.ilen < 1) : bodyValid (.raw s.input) = true := by
  have hlen := input_length s
  simp only [bodyValid, Bool.not_eq_true', List.isEmpty_eq_false_iff]
  exact List.ne_nil_of_length_pos (by omega)

/-- Every instruction keeps the slots valid and leaves a legal `STATUS`: what it writes to a slot is read by the parser,
assembled by a constructor, or a frame that stood in a slot, with another body of the same length or other metadata. -/
theorem exec_slotsAndStatus {i : Instr} {s t : State} (hs : SlotsValid s) (hilen : s.ilen ≤ s.params.lenMax)
    (h : exec i s = .next t) : SlotsAndStatus t := by
  have hinput : s.input.length ≤ s.params.lenMax := by rwa [input_length]
  cases i
  case aenc | astr | fenc | fstr =>
    refine hs.conclude h fun t' h' => ?_
    simp only [bind_eq_ok, produce_eq_ok] at h'
    obtain ⟨_, _, -, rfl⟩ := h'
    exact SlotsValid.answer (s := s.emit _) hs _ (Nat.zero_le _)
  case i8 | rr8 | rnr8 | rej8 | srej8 | ui | i16 | rr16 | rnr16 | rej16 | srej16 =>
    simp only [exec, execI8, execRr8, execRnr8, execRej8, execSrej8, execUi, execI16, execRr16, execRnr16,
      execRej16, execSrej16] at h
    exact hs.classifyField h
  case uother => exact hs.conclude h fun _ => hs.classify
  case ccls =>
    refine hs.conclude h fun t' h' => ?_
    simp only [bind_eq_ok] at h'
    obtain ⟨_, -, _, -, h'⟩ := h'
    exact hs.classify h'
  case amk | getts | getdl | raw =>
    refine hs.conclude h fun t' h' => ?_
    simp only [bind_eq_ok, Except.ok.injEq] at h'
    obtain ⟨_, -, rfl⟩ := h'
    exact hs.answer _ (Nat.zero_le _)
  case adec | addr7 =>
    refine hs.conclude h fun t' h' => ?_
    simp only [bind_eq_ok, Except.ok.injEq] at h'
    obtain ⟨_, -, _, -, rfl⟩ := h'
    exact hs.answer _ (Nat.zero_le _)
  case fget src =>
    refine hs.conclude h fun t' h' => ?_
    simp only [bind_eq_ok, Except.ok.injEq] at h'
    obtain ⟨_, -, rfl⟩ := h'
    exact hs.answer _ (slotCode_le _)
  case ffree d =>
    refine hs.conclude h fun t' h' => ?_
    simp only [bind_eq_ok, Except.ok.injEq] at h'
    obtain ⟨_, -, rfl⟩ := h'
    exact (hs.setSlot d rfl).answer _ (Nat.zero_le _)
  case setts src v =>
    refine hs.conclude h fun t' h' => ?_
    simp only [bind_eq_ok, fullSlot_eq_ok, checkTime_eq_ok, Except.ok.injEq] at h'
    obtain ⟨f, hf, _, hv, rfl⟩ := h'
    obtain ⟨-, -, hdl⟩ := hs.frame hf
    exact hs.setMetadata hf hv hdl
  case setdl src v =>
    refine hs.conclude h fun t' h' => ?_
    simp only [bind_eq_ok, fullSlot_eq_ok, checkTime_eq_ok, Except.ok.injEq] at h'
    obtain ⟨f, hf, _, hv, _, -, rfl⟩ := h'
    obtain ⟨-, hts, -⟩ := hs.frame hf
    exact hs.setMetadata hf hts (by simpa using hv)
  case fparse d =>
    refine hs.conclude h fun t' h' => ?_
    simp only [bind_eq_ok, Except.ok.injEq] at h'
    obtain ⟨_, -, r, hr, rfl⟩ := h'
    exact SlotsValid.deliver (s := s.timeTaken) hs d (validFrame_of_parseRaw hr hinput _) (timeNow_lt s) nofun nofun
  case fdecb d m =>
    refine hs.conclude h fun t' h' => ?_
    simp only [bind_eq_ok, Except.ok.injEq] at h'
    obtain ⟨_, -, m', -, ⟨r, body, ucf⟩, hr, rfl⟩ := h'
    obtain ⟨hvalid, hucf⟩ := decodeFrame_ok hr hinput s.timeNow
    exact SlotsValid.deliver (s := s.timeTaken) hs d hvalid (timeNow_lt s) nofun hucf
  case fdecf d src m =>
    refine hs.conclude h fun t' h' => ?_
    simp only [bind_eq_ok, fullSlot_eq_ok, Except.ok.injEq] at h'
    obtain ⟨_, -, _, -, m', -, f, hf, ⟨body, ucf⟩, hb, rfl⟩ := h'
    obtain ⟨hvalid, hts, hdl⟩ := hs.frame hf
    obtain ⟨-, -, -, -, -, hbody, -⟩ := (validFrame_iff _ f).1 hvalid
    obtain ⟨hv, hlen, hucf⟩ := promoteBody_ok hb hbody
    exact hs.deliver d (validFrame_withBody hvalid hv hlen) hts hdl hucf
  case fcpy d src =>
    refine hs.conclude h fun t' h' => ?_
    simp only [bind_eq_ok, fullSlot_eq_ok, Except.ok.injEq] at h'
    obtain ⟨_, -, _, -, f, hf, rfl⟩ := h'
    obtain ⟨hvalid, hts, hdl⟩ := hs.frame hf
    exact hs.deliver d hvalid hts hdl nofun
  case mkraw a =>
    refine hs.make h fun b hb => ?_
    simp only [bind_eq_ok, refuseIf_eq_ok, Except.ok.injEq] at hb
    obtain ⟨_, hne, rfl⟩ := hb
    exact bodyValid_raw_input hne
  case mkui | mkrr8 | mkrnr8 | mkrej8 | mksrej8 | mkrr16 | mkrnr16 | mkrej16 | mksrej16 =>
    refine hs.make h fun b hb => ?_
    simp only [bind_eq_ok, Except.ok.injEq] at hb
    obtain ⟨_, -, _, -, rfl⟩ := hb
    rfl
  case mki8 | mki16 =>
    refine hs.make h fun b hb => ?_
    simp only [bind_eq_ok, Except.ok.injEq] at hb
    obtain ⟨_, -, _, -, _, -, _, -, rfl⟩ := hb
    rfl

/-- Every instruction keeps the invariant. -/
theorem State.Inv.exec {i : Instr} {s t : State} (hs : s.Inv) (h : exec i s = .next t) : t.Inv := by
  obtain ⟨hibuf, hilen, hparams, -, -, hnslot⟩ := exec_keeps_host_side h
  obtain ⟨hslots, hstatus⟩ := exec_slotsAndStatus hs.slots hs.ilen h
  have hout : t.olen ≤ t.params.lenMax ∧ Memory.wf t.obuf = true ∧
      ∀ a, (Memory.get t.obuf a).isSome = decide (a < t.olen) := by
    obtain ⟨hobuf, holen⟩ | ⟨r, -, hr, hobuf, holen⟩ := exec_obuf h
    · rw [hobuf, holen, hparams]
      exact ⟨hs.olen, hs.obufWf, hs.obufExact⟩
    · rw [hobuf, holen, hparams]
      exact ⟨hr, Memory.wf_ofOctets r 0, fun a => by simp [Memory.get_ofOctets, Bool.eq_iff_iff (b := decide _)]⟩
  obtain ⟨holen, hobufWf, hobufExact⟩ := hout
  exact {
    params := (paramsLegal_iff t).2 (hnslot ▸ hparams ▸ (paramsLegal_iff s).1 hs.params)
    slots := hslots
    status := hstatus
    ilen := by rw [hilen, hparams]; exact hs.ilen
    olen := holen
    ibufWf := hibuf ▸ hs.ibufWf
    ibufInside := by rw [hibuf, hparams]; exact hs.ibufInside
    obufWf := hobufWf
    obufExact := hobufExact }

theorem State.Inv.stop {s : State} (hs : s.Inv) (e : Stop) : (s.stop e).Inv :=
  { hs with status := statusLegal_stopStatus e }

/-- The host's pending acts take no part in the invariant. -/
theorem State.Inv.setInbox {s : State} (hs : s.Inv) (rest : List HostEvent) : { s with inbox := rest }.Inv :=
  { hs with }

/-! ## The host's acts keep the invariant -/

theorem State.Inv.writeIbuf {s t : State} (hs : s.Inv) {off : Nat} {octets : List Byte}
    (h : hostWriteIbuf off octets s = .next t) : t.Inv := by
  unfold hostWriteIbuf at h
  split at h
  · cases h
  next hin =>
  cases h
  refine { hs with ibufWf := Memory.wf_store octets s.ibuf off hs.ibufWf, ibufInside := fun c hc => ?_ }
  obtain hc | ⟨-, hc⟩ := Memory.mem_store octets s.ibuf off c hc
  · exact hs.ibufInside c hc
  · exact lt_of_lt_of_le hc (Nat.not_lt.1 hin)

theorem State.Inv.setIlen {s t : State} (hs : s.Inv) {n : Nat} (h : hostSetIlen n s = .next t) : t.Inv := by
  unfold hostSetIlen at h
  split at h
  · cases h
  next hin =>
  cases h
  exact { hs with ilen := Nat.not_lt.1 hin }

theorem State.Inv.driveTime {s t : State} (hs : s.Inv) {v : Option Nat} (h : hostDriveTime v s = .next t) :
    t.Inv := by
  unfold hostDriveTime at h
  split at h
  · cases h; exact { hs with }
  · split at h
    · cases h
    · cases h; exact { hs with }

theorem State.Inv.hostReset {s t : State} (hs : s.Inv) (h : hostReset s = .next t) : t.Inv := by
  have hnslot : (State.resetWith s.params s.nslot).nslot = s.nslot := List.length_replicate
  have hlegal : paramsLegal (State.resetWith s.params s.nslot) = true := by
    rw [paramsLegal_iff, hnslot]
    exact (paramsLegal_iff s).1 hs.params
  cases h
  exact { inv_resetWith hlegal with }

/-- Settles O58: each act of the host, and each instruction its input decodes to, keeps the invariant. -/
theorem everyStepKeepsTheInvariant : Obligations.EveryStepKeepsTheInvariant := by
  intro s t hs h
  cases hinbox : s.inbox with
  | nil =>
    obtain rfl : s = t := Host.Outcome.next.inj ((step_of_inbox_nil hinbox).symm.trans h)
    exact hs
  | cons ev rest =>
    have hs' := hs.setInbox rest
    cases ev with
    | item it =>
      cases hd : decode it with
      | ok i => exact hs'.exec ((step_of_decode_ok hinbox hd).symm.trans h)
      | error e =>
        obtain rfl := Host.Outcome.next.inj ((step_of_decode_error hinbox hd).symm.trans h)
        rw [← stop_setInbox]
        exact hs'.stop _
    | writeIbuf off octets => exact hs'.writeIbuf ((step_of_writeIbuf hinbox).symm.trans h)
    | setIlen n => exact hs'.setIlen ((step_of_setIlen hinbox).symm.trans h)
    | driveTime v => exact hs'.driveTime ((step_of_driveTime hinbox).symm.trans h)
    | reset => exact hs'.hostReset ((step_of_reset hinbox).symm.trans h)

end Sys2Proof.Machine
end

section
/-! Proofs about `TIME` (10_state.md R32; 44_frame_metadata.md R246, R247): two runs of an operation, on states that
differ in what `TIME` carries alone. -/

namespace Sys2Proof.Machine

open Sys2Proof.Claims

/-! ## Two runs side by side -/

/-- The state with another `TIME` input. -/
def State.withTime (s : State) (v : Option Nat) (n : Nat) : State := { s with time := v, timeDraws := n }

/-- Two computations end alike: with the same stop, or both `ok` in states related by `R`. -/
def Alike (R : State → State → Prop) : Except Stop State → Except Stop State → Prop
  | .ok t, .ok t' => R t t'
  | .error e, .error e' => e = e'
  | _, _ => False

/-- Computations with the same first part end alike when what follows it does. -/
theorem Alike.bind {R : State → State → Prop} {α : Type} {x : Except Stop α} {f f' : α → Except Stop State}
    (h : ∀ a, x = .ok a → Alike R (f a) (f' a)) : Alike R (x >>= f) (x >>= f') := by
  cases x with
  | ok a => exact h a rfl
  | error e => exact rfl

/-- Computations that end alike make operations that do. -/
theorem conclude_of_alike {R : State → State → Prop} {s s' t : State} {r r' : Except Stop State}
    (h : conclude s r = .next t) (halike : Alike R r r') :
    (∃ e, t = stopped s e ∧ conclude s' r' = .next (stopped s' e)) ∨ ∃ t', R t t' ∧ conclude s' r' = .next t' := by
  cases r with
  | ok u =>
    cases r' with
    | ok u' => cases h; exact .inr ⟨u', halike, rfl⟩
    | error e' => exact halike.elim
  | error e =>
    cases r' with
    | ok u' => exact halike.elim
    | error e' =>
      cases h
      obtain rfl : e = e' := halike
      exact .inl ⟨e, s.stop_eq_stopped e, by rw [conclude_error, State.stop_eq_stopped]⟩

/-! ## Operations that take no sample -/

/-- The second state is the first with another `TIME` input. -/
def Retimed (v : Option Nat) (n : Nat) (t t' : State) : Prop := t' = t.withTime v n

theorem conclude_withTime {s t : State} {v : Option Nat} {n : Nat} {r r' : Except Stop State}
    (h : conclude s r = .next t) (halike : Alike (Retimed v n) r r') :
    conclude (s.withTime v n) r' = .next (t.withTime v n) := by
  obtain ⟨e, rfl, h'⟩ | ⟨t', rfl, h'⟩ := conclude_of_alike (s' := s.withTime v n) h halike
  · exact h'
  · exact h'

theorem classify_retimed (s : State) (v : Option Nat) (n : Nat) (m : Modulus) (p : List Byte) :
    Alike (Retimed v n) (classify s m p) (classify (s.withTime v n) m p) :=
  .bind fun _ _ => rfl

theorem produce_retimed (s : State) (v : Option Nat) (n : Nat) (r : List Byte) :
    Alike (Retimed v n) (s.produce r) ((s.withTime v n).produce r) := by
  by_cases h : s.params.lenMax < r.length
  · simp [State.produce, State.withTime, h, Alike]
  · simp only [State.produce, State.withTime, h, if_false]; rfl

theorem classifyField_withTime {s t : State} {m : Modulus} {f : ControlField} (h : classifyField m f s = .next t)
    (v : Option Nat) (n : Nat) : classifyField m f (s.withTime v n) = .next (t.withTime v n) :=
  conclude_withTime h (classify_retimed s v n m _)

/-- A constructor that is given its `ts`. -/
theorem make_withTime {s t : State} {a : MkArgs} {body : Except Stop Body} (hts : a.ts ≠ none)
    (h : make a body s = .next t) (v : Option Nat) (n : Nat) :
    make a body (s.withTime v n) = .next (t.withTime v n) := by
  obtain ⟨ts, hts⟩ := Option.ne_none_iff_exists'.1 hts
  refine conclude_withTime h (.bind fun _ _ => .bind fun _ _ => .bind fun _ _ => .bind fun _ _ => .bind fun _ _ =>
    .bind fun _ _ => .bind fun _ _ => .bind fun _ _ => .bind fun _ _ => ?_)
  simp only [Alike, Retimed, sampled, assemble, hts]
  rfl

/-- An operation that takes no sample does the same whatever `TIME` carries. -/
theorem exec_withTime {i : Instr} {s t : State} (hi : ¬ samplesTime i) (h : exec i s = .next t) (v : Option Nat)
    (n : Nat) : exec i (s.withTime v n) = .next (t.withTime v n) := by
  cases i
  case fparse | fdecb => exact absurd trivial hi
  case i8 | rr8 | rnr8 | rej8 | srej8 | ui | i16 | rr16 | rnr16 | rej16 | srej16 =>
    simp only [exec, execI8, execRr8, execRnr8, execRej8, execSrej8, execUi, execI16, execRr16, execRnr16,
      execRej16, execSrej16] at h ⊢
    exact classifyField_withTime h v n
  case uother => exact conclude_withTime h (classify_retimed s v n _ _)
  case ccls => exact conclude_withTime h (.bind fun _ _ => .bind fun _ _ => classify_retimed s v n _ _)
  case aenc | astr | fenc | fstr => exact conclude_withTime h (.bind fun _ _ => produce_retimed s v n _)
  case amk | fget | ffree | getts | getdl | raw => exact conclude_withTime h (.bind fun _ _ => rfl)
  case adec | addr7 | setts => exact conclude_withTime h (.bind fun _ _ => .bind fun _ _ => rfl)
  case setdl | fcpy => exact conclude_withTime h (.bind fun _ _ => .bind fun _ _ => .bind fun _ _ => rfl)
  case fdecf =>
    exact conclude_withTime h (.bind fun _ _ => .bind fun _ _ => .bind fun _ _ => .bind fun _ _ => .bind fun _ _ => rfl)
  all_goals exact make_withTime hi h v n

/-- Such an operation counts no sample: the second run may be the first. -/
theorem exec_timeDraws {i : Instr} {s t : State} (hi : ¬ samplesTime i) (h : exec i s = .next t) :
    t.timeDraws = s.timeDraws := by
  have hsame : t = t.withTime s.time s.timeDraws :=
    Host.Outcome.next.inj (h.symm.trans (exec_withTime hi h s.time s.timeDraws))
  rw [hsame]; rfl

/-! ## Operations that take a sample -/

/-- Both states have slot `d` replaced by the same frame, each with its own sample as the timestamp. -/
def SampledInto (d : Nat) (s s' t t' : State) : Prop :=
  d < s.nslot ∧ ∃ (f : Frame) (ucf : Bool), t = s.timeTaken.deliver d { f with ts := s.timeNow } ucf ∧
    t' = s'.timeTaken.deliver d { f with ts := s'.timeNow } ucf

/-- The second of two runs on states that differ in `TIME`, from the first. -/
theorem SampledInto.eq {d : Nat} {s t t' : State} {v : Option Nat} {n : Nat}
    (h : SampledInto d s (s.withTime v n) t t') :
    d < s.slots.length ∧ ∃ f, f.ts = s.timeNow ∧ t.slots = s.slots.set d (some f) ∧ t.timeDraws = s.timeDraws + 1 ∧
      t' = { t with
        slots := s.slots.set d (some { f with ts := (s.withTime v n).timeNow })
        time := v
        timeDraws := n + 1 } := by
  obtain ⟨hd, f, ucf, rfl, rfl⟩ := h
  exact ⟨hd, { f with ts := s.timeNow }, rfl, rfl, rfl, rfl⟩

/-- The two ways two runs of an operation that samples `TIME` for slot `d` end. -/
def SampledRuns (d : Nat) (s s' t : State) (o' : Host.Outcome State Fault Refusal) : Prop :=
  (∃ e, t = stopped s e ∧ o' = .next (stopped s' e)) ∨ ∃ t', SampledInto d s s' t t' ∧ o' = .next t'

/-- A constructor that is given no `ts`. -/
theorem make_sampled {s t : State} {a : MkArgs} {body : Except Stop Body} (hts : a.ts = none)
    (h : make a body s = .next t) (v : Option Nat) (n : Nat) :
    SampledRuns a.d s (s.withTime v n) t (make a body (s.withTime v n)) := by
  refine conclude_of_alike h (.bind fun _ hd => .bind fun dest _ => .bind fun src _ => .bind fun rpt _ =>
    .bind fun _ _ => .bind fun _ _ => .bind fun _ _ => .bind fun b _ => .bind fun _ _ => ?_)
  refine ⟨(checkSlot_eq_ok s a.d _).1 hd, assemble s a dest src rpt b, false, ?_⟩
  simp only [sampled, assemble, hts]
  exact ⟨rfl, rfl⟩

/-- An operation that takes a sample writes it to its slot as the frame's timestamp, and nothing else follows `TIME`. -/
theorem exec_sampled {i : Instr} {s t : State} (hi : samplesTime i) (h : exec i s = .next t) (v : Option Nat)
    (n : Nat) : ∃ d, replacedSlot i = some d ∧ SampledRuns d s (s.withTime v n) t (exec i (s.withTime v n)) := by
  cases i
  case fparse d =>
    refine ⟨d, rfl, conclude_of_alike h (.bind fun _ hd => .bind fun r _ => ?_)⟩
    exact ⟨(checkSlot_eq_ok s d _).1 hd, r.frame (.raw r.payload) 0, false, rfl, rfl⟩
  case fdecb d m =>
    refine ⟨d, rfl, conclude_of_alike h (.bind fun _ hd => .bind fun _ _ => .bind fun ⟨r, body, ucf⟩ _ => ?_)⟩
    exact ⟨(checkSlot_eq_ok s d _).1 hd, r.frame body 0, ucf, rfl, rfl⟩
  case mkraw | mkui | mki8 | mki16 | mkrr8 | mkrnr8 | mkrej8 | mksrej8 | mkrr16 | mkrnr16 | mkrej16 | mksrej16 =>
    exact ⟨_, rfl, make_sampled hi h v n⟩
  all_goals exact hi.elim

/-- Settles O57: the operations that take no sample run alike, and those that do differ in the sample alone. -/
theorem timeIsReadOnlyToDefaultATimestamp : Obligations.TimeIsReadOnlyToDefaultATimestamp := by
  rintro i s _ t v n rfl h
  refine ⟨fun hi => ⟨exec_timeDraws hi h, exec_withTime hi h v n⟩, fun hi => ?_⟩
  obtain ⟨d, hd, ⟨e, rfl, h'⟩ | ⟨t', hs, h'⟩⟩ := exec_sampled hi h v n
  · exact .inl ⟨e, rfl, h'⟩
  · obtain ⟨hlt, f, hts, hslots, hdraws, rfl⟩ := hs.eq
    exact .inr ⟨d, f, hd, hlt, hts, hslots, hdraws, h'⟩

end Sys2Proof.Machine
end

section
/-! Proofs that the decoder's readers give back what the encoder's writers put (30_encoding.md R100; the octets are the
model's own carriage, log entry 1). A reader is stated with any octets after the operand: it takes its own alone. -/

namespace Sys2Proof

/-! ## One operand -/

/-- The bound on the recursion is never used up: a group of 7 bits makes a positive number smaller. -/
theorem getNat_putNatUpTo (k n : Nat) (hn : n ≤ k) (bs : List Byte) : getNat (putNatUpTo k n ++ bs) = some (n, bs) := by
  induction k generalizing n with
  | zero =>
    obtain rfl : n = 0 := by omega
    simp [putNatUpTo, getNat]
  | succ k ih =>
    by_cases hlast : n < 128
    · have hoctet : n % 256 = n := by omega
      simp [putNatUpTo, getNat, hlast, hoctet]
    · have hoctet : (n % 128 + 128) % 256 = n % 128 + 128 := by omega
      have hmore : ¬ n % 128 + 128 < 128 := by omega
      have hrest : n / 128 ≤ k := by omega
      simp [putNatUpTo, getNat, hlast, hoctet, ih _ hrest, Nat.mod_add_div]

@[simp] theorem getNat_putNat (n : Nat) (bs : List Byte) : getNat (putNat n ++ bs) = some (n, bs) :=
  getNat_putNatUpTo n n le_rfl bs

@[simp] theorem getBit_putBit (b : Bool) (bs : List Byte) : getBit (putBit b ++ bs) = some (b, bs) := by
  cases b <;> simp [putBit, getBit]

@[simp] theorem getTwo_putTwo (v : BitVec 2) (bs : List Byte) : getTwo (putTwo v ++ bs) = some (v, bs) := by
  have hv : v.toNat < 4 := v.isLt
  have hoctet : v.toNat % 256 = v.toNat := by omega
  simp [putTwo, getTwo, hoctet, hv]

@[simp] theorem getCh_putCh (c : Ch) (bs : List Byte) : getCh (putCh c ++ bs) = some (c, bs) := by
  have hc : c.toNat < 128 := c.isLt
  have hoctet : c.toNat % 256 = c.toNat := by omega
  simp [putCh, getCh, hoctet, hc]

/-! ## Operands with a default, and lists -/

section
variable {α : Type} {put : α → List Byte} {get : List Byte → Option (α × List Byte)}

@[simp] theorem getOption_putOption (h : ∀ x bs, get (put x ++ bs) = some (x, bs)) (o : Option α) (bs : List Byte) :
    getOption get (putOption put o ++ bs) = some (o, bs) := by
  cases o <;> simp [putOption, getOption, h]

theorem getMany_flatMap (h : ∀ x bs, get (put x ++ bs) = some (x, bs)) (xs : List α) (bs : List Byte) :
    getMany get xs.length (xs.flatMap put ++ bs) = some (xs, bs) := by
  induction xs with
  | nil => rfl
  | cons x xs ih => simp [getMany, h, ih]

@[simp] theorem getList_putList (h : ∀ x bs, get (put x ++ bs) = some (x, bs)) (xs : List α) (bs : List Byte) :
    getList get (putList put xs ++ bs) = some (xs, bs) := by
  simp [getList, putList, getMany_flatMap h]

end

/-! ## Address operands, and the operands of R200 -/

@[simp] theorem getAddr_putAddr (a : AddrOperand) (bs : List Byte) : getAddr (putAddr a ++ bs) = some (a, bs) := by
  simp [getAddr, putAddr]

@[simp] theorem getMk_putMk (a : MkArgs) (bs : List Byte) : getMk (putMk a ++ bs) = some (a, bs) := by
  simp [getMk, putMk]

/-! ## The operands of a command code -/

theorem readNat_putNat (mk : Nat → Instr) (n : Nat) (bs : List Byte) : readNat mk (putNat n ++ bs) = some (mk n) := by
  simp [readNat]

theorem readNatNat_putNat (mk : Nat → Nat → Instr) (a b : Nat) (bs : List Byte) :
    readNatNat mk (putNat a ++ putNat b ++ bs) = some (mk a b) := by
  simp [readNatNat]

theorem readAddr_putAddr (mk : AddrOperand → Instr) (a : AddrOperand) (bs : List Byte) :
    readAddr mk (putAddr a ++ bs) = some (mk a) := by
  simp [readAddr]

theorem readMkI_putMkI (mk : MkArgs → Nat → Nat → Option Nat → Nat → Instr) (a : MkArgs) (ns nr : Nat)
    (pf : Option Nat) (pid : Nat) (bs : List Byte) :
    readMkI mk (putMkI a ns nr pf pid ++ bs) = some (mk a ns nr pf pid) := by
  simp [readMkI, putMkI]

theorem readMkS_putMkS (mk : MkArgs → Nat → Option Nat → Instr) (a : MkArgs) (nr : Nat) (pf : Option Nat)
    (bs : List Byte) : readMkS mk (putMkS a nr pf ++ bs) = some (mk a nr pf) := by
  simp [readMkS, putMkS]

/-! ## Requests -/

/-- A code is unassigned exactly when no row of R100's table has it. -/
theorem opReader_eq_none_iff (c : Byte) : opReader c = none ↔ c ∉ opRows.map Prod.fst := by
  simp only [opReader, Option.map_eq_none_iff, List.find?_eq_none, beq_iff_eq, List.mem_map, not_exists, not_and]

/-- A request decodes when the reader of its code reads its operands, whatever octets follow them. -/
theorem decode_request {code : Byte} {operands : List Byte} {read : List Byte → Option Instr} {i : Instr}
    (hcode : opReader code = some read) (hread : ∀ bs, read (operands ++ bs) = some i) :
    decode (request code operands) = .ok i := by
  have hall : read operands = some i := by simpa using hread []
  simp [request, decode, decodeRequest, hcode, hall]

/-! ## Control fields -/

@[simp] theorem readRow_nil {n : Nat} (c : BitVec n) : readRow [] c = none := rfl

@[simp] theorem readRow_cons {n : Nat} (mask pattern : BitVec n) (fields : BitVec n → Instr)
    (rows : List (BitVec n × BitVec n × (BitVec n → Instr))) (c : BitVec n) :
    readRow ((mask, pattern, fields) :: rows) c = if c &&& mask = pattern then some (fields c) else readRow rows c := by
  by_cases h : c &&& mask = pattern <;> simp [readRow, h]

/-- No unnumbered row takes an octet of another class (R93). -/
theorem readRow_ctlURows_of_other_class {c0 : Byte} (h : c0 &&& 0x03 ≠ 0x03) : readRow ctlURows c0 = none := by
  have hui : c0 &&& 0xEF ≠ 0x03 := by revert c0; decide
  rw [ctlURows, readRow_cons, if_neg hui, readRow_cons, if_neg h, readRow_nil]

/-- A control octet of the information or supervisory class, alone under `M8`, is read by the rows of R88. -/
theorem decode_m8_octet {c0 : Byte} {i : Instr} (hclass : c0 &&& 0x03 ≠ 0x03) (hrow : readRow ctl8Rows c0 = some i) :
    decode (.control .m8 [c0]) = .ok i := by
  simp [decode, decodeControl, readRow_ctlURows_of_other_class hclass, rawRegion, hrow]

/-- The two octets of a 16-bit control field under `M128` are read by the rows of R90, as `ctl16`. -/
theorem decode_m128_pair {c0 c1 : Byte} {i : Instr} (hfirst : c0 &&& 0x01 = 0x00 ∨ c0 &&& 0xF3 = 0x01)
    (hrow : readRow ctl16Rows (c1 ++ c0) = some i) : decode (.control .m128 [c0, c1]) = .ok i := by
  obtain ⟨hu, hraw⟩ := Machine.sixteenBit_octet_unclaimed c0 hfirst
  have hraw : rawRegion .m128 [c0, c1] = false := hraw
  simp [decode, decodeControl, hu, hraw, hrow]

/-- Bits 15:9 of `ctl16` are the bits 7:1 of the second octet (R90). -/
theorem ctl16_nr (nr : BitVec 7) (pf : Bool) (c0 : Byte) :
    ((nr ++ BitVec.ofBool pf) ++ c0).extractLsb' 9 7 = nr := by
  rw [BitVec.extractLsb'_append_eq_of_le (by decide)]
  exact BitVec.extractLsb'_append_eq_left

/-- Bit 8 of `ctl16` is bit 0 of the second octet (R90). -/
theorem ctl16_pf (nr : BitVec 7) (pf : Bool) (c0 : Byte) : ((nr ++ BitVec.ofBool pf) ++ c0).getLsbD 8 = pf := by
  rw [BitVec.getLsbD_append, BitVec.getLsbD_append]
  simp

/-- Bits 7:1 of `ctl16` are those of the first octet (R90). -/
theorem ctl16_ns (ns : BitVec 7) (c1 : Byte) : (c1 ++ (ns ++ 0b0#1)).extractLsb' 1 7 = ns := by
  rw [BitVec.extractLsb'_append_eq_of_add_le (by decide)]
  exact BitVec.extractLsb'_append_eq_left

theorem readS16_ctl16 (mk : BitVec 7 → Bool → Instr) (nr : BitVec 7) (pf : Bool) (c0 : Byte) :
    readS16 mk ((nr ++ BitVec.ofBool pf) ++ c0) = mk nr pf := by
  rw [readS16, ctl16_nr, ctl16_pf]

/-- A mask of the low half of `ctl16` looks at the first octet alone. -/
theorem ctl16_and_eq_iff (c1 c0 mask pattern : Byte) :
    (c1 ++ c0) &&& (0#8 ++ mask) = 0#8 ++ pattern ↔ c0 &&& mask = pattern := by
  rw [BitVec.and_append, BitVec.and_zero]
  refine ⟨fun h => ?_, fun h => by rw [h]⟩
  have hlow := congrArg (BitVec.extractLsb' 0 8) h
  rwa [BitVec.extractLsb'_append_eq_right, BitVec.extractLsb'_append_eq_right] at hlow

/-- The row of R90 that reads a `ctl16` is found from its first octet. -/
theorem readRow_ctl16Rows (c0 c1 : Byte) : readRow ctl16Rows (c1 ++ c0) =
    if c0 &&& 0x01 = 0x00 then
      some (.i16 ((c1 ++ c0).extractLsb' 1 7) ((c1 ++ c0).extractLsb' 9 7) ((c1 ++ c0).getLsbD 8))
    else if c0 = 0x01 then some (readS16 .rr16 (c1 ++ c0))
    else if c0 = 0x05 then some (readS16 .rnr16 (c1 ++ c0))
    else if c0 = 0x09 then some (readS16 .rej16 (c1 ++ c0))
    else if c0 = 0x0D then some (readS16 .srej16 (c1 ++ c0))
    else none := by
  have hinfo : (c1 ++ c0) &&& (0x0001 : BitVec 16) = 0x0000 ↔ c0 &&& 0x01 = 0x00 := ctl16_and_eq_iff c1 c0 0x01 0x00
  have hsup (pattern : Byte) : (c1 ++ c0) &&& (0x00FF : BitVec 16) = 0#8 ++ pattern ↔ c0 = pattern := by
    have hall : c0 &&& 0xFF = c0 := BitVec.and_allOnes
    exact (ctl16_and_eq_iff c1 c0 0xFF pattern).trans (by rw [hall])
  have hrr : (c1 ++ c0) &&& (0x00FF : BitVec 16) = 0x0001 ↔ c0 = 0x01 := hsup 0x01
  have hrnr : (c1 ++ c0) &&& (0x00FF : BitVec 16) = 0x0005 ↔ c0 = 0x05 := hsup 0x05
  have hrej : (c1 ++ c0) &&& (0x00FF : BitVec 16) = 0x0009 ↔ c0 = 0x09 := hsup 0x09
  have hsrej : (c1 ++ c0) &&& (0x00FF : BitVec 16) = 0x000D ↔ c0 = 0x0D := hsup 0x0D
  simp only [ctl16Rows, readRow_cons, readRow_nil, hinfo, hrr, hrnr, hrej, hsrej]

/-! ## Decode of encode, format by format -/

theorem decode_encode_ui (pf : Bool) : decode (encode (.ui pf)) = .ok (.ui pf) := by cases pf <;> rfl

theorem decode_encode_uother {c0 : Byte} (h : uotherOctet c0 = true) :
    decode (encode (.uother c0)) = .ok (.uother c0) := by
  obtain ⟨hu, hui⟩ : c0 &&& 0x03 = 0x03 ∧ c0 &&& 0xEF ≠ 0x03 := by simpa [uotherOctet] using h
  have hrow : readRow ctlURows c0 = some (.uother c0) := by
    rw [ctlURows, readRow_cons, if_neg hui, readRow_cons, if_pos hu]
  simp [encode, decode, decodeControl, hrow]

theorem decode_encode_i8 (ns nr : BitVec 3) (pf : Bool) : decode (encode (.i8 ns nr pf)) = .ok (.i8 ns nr pf) :=
  decode_m8_octet (by revert ns nr pf; decide) (by revert ns nr pf; decide)

/-- The supervisory format of one octet with a given subtype (R88, R91). -/
def supervisory8 : Supervisory → BitVec 3 → Bool → Instr
  | .rr => .rr8
  | .rnr => .rnr8
  | .rej => .rej8
  | .srej => .srej8

theorem decode_encode_supervisory8 (st : Supervisory) (nr : BitVec 3) (pf : Bool) :
    decode (encode (supervisory8 st nr pf)) = .ok (supervisory8 st nr pf) := by
  cases st <;> exact decode_m8_octet (by revert nr pf; decide) (by revert nr pf; decide)

theorem decode_encode_i16 (ns nr : BitVec 7) (pf : Bool) : decode (encode (.i16 ns nr pf)) = .ok (.i16 ns nr pf) := by
  have hfirst : (ns ++ 0b0#1 : Byte) &&& 0x01 = 0x00 := by revert ns; decide
  refine decode_m128_pair (.inl hfirst) ?_
  rw [readRow_ctl16Rows, if_pos hfirst, ctl16_ns, ctl16_nr, ctl16_pf]

/-- The supervisory format of two octets with a given subtype (R90, R91). -/
def supervisory16 : Supervisory → BitVec 7 → Bool → Instr
  | .rr => .rr16
  | .rnr => .rnr16
  | .rej => .rej16
  | .srej => .srej16

/-- The first octet is a constant of the subtype, so the row it selects is found by evaluation. -/
theorem decode_encode_supervisory16 (st : Supervisory) (nr : BitVec 7) (pf : Bool) :
    decode (encode (supervisory16 st nr pf)) = .ok (supervisory16 st nr pf) := by
  cases st <;>
    exact decode_m128_pair (.inr rfl) ((readRow_ctl16Rows _ _).trans (congrArg some (readS16_ctl16 _ _ _ _)))

theorem other_class_of_rawRegion {m : Modulus} {c0 : Byte} {t : List Byte} (h : rawRegion m (c0 :: t) = true) :
    c0 &&& 0x03 ≠ 0x03 := by
  intro hu
  have hraw : rawRegion m (c0 :: t) = false := if_pos (beq_iff_eq.2 hu)
  exact absurd h (by simp [hraw])

theorem decode_encode_raw {m : Modulus} {p : List Byte} (h : rawRegion m p = true) :
    decode (encode (.raw m p)) = .ok (.raw m p) := by
  cases p with
  | nil => cases h
  | cons c0 t =>
    simp [encode, decode, decodeControl, readRow_ctlURows_of_other_class (other_class_of_rawRegion h), h]

theorem decode_encode_addr7 {o : List Byte} (h : o.length = 7) : decode (encode (.addr7 o)) = .ok (.addr7 o) := by
  simp [encode, decode, h, List.take_of_length_le]

/-- Settles O2: an operation's operands are read back by the reader of its code, a format's octets by its row. -/
theorem decodeOfEncodeIsTheInstruction : Obligations.DecodeOfEncodeIsTheInstruction := by
  intro i hi
  cases i
  case fparse | fenc | fstr | fget | ffree | getts | getdl => exact decode_request rfl (readNat_putNat _ _)
  case fcpy | setts | setdl => exact decode_request rfl (readNatNat_putNat _ _ _)
  case aenc | astr => exact decode_request rfl (readAddr_putAddr _ _)
  case mki8 | mki16 => exact decode_request rfl (readMkI_putMkI _ _ _ _ _ _)
  case mkrr8 | mkrnr8 | mkrej8 | mksrej8 | mkrr16 | mkrnr16 | mkrej16 | mksrej16 =>
    exact decode_request rfl (readMkS_putMkS _ _ _ _)
  case amk => exact decode_request rfl fun bs => by simp [readAmk]
  case adec => exact decode_request rfl fun bs => by simp [readAdec]
  case ccls => exact decode_request rfl fun bs => by simp [readCcls]
  case fdecb => exact decode_request rfl fun bs => by simp [readFdecb]
  case fdecf => exact decode_request rfl fun bs => by simp [readFdecf]
  case mkraw => exact decode_request rfl fun bs => by simp [readMkraw]
  case mkui => exact decode_request rfl fun bs => by simp [readMkui]
  case i8 ns nr pf => exact decode_encode_i8 ns nr pf
  case rr8 nr pf => exact decode_encode_supervisory8 .rr nr pf
  case rnr8 nr pf => exact decode_encode_supervisory8 .rnr nr pf
  case rej8 nr pf => exact decode_encode_supervisory8 .rej nr pf
  case srej8 nr pf => exact decode_encode_supervisory8 .srej nr pf
  case ui pf => exact decode_encode_ui pf
  case uother c0 => exact decode_encode_uother hi
  case i16 ns nr pf => exact decode_encode_i16 ns nr pf
  case rr16 nr pf => exact decode_encode_supervisory16 .rr nr pf
  case rnr16 nr pf => exact decode_encode_supervisory16 .rnr nr pf
  case rej16 nr pf => exact decode_encode_supervisory16 .rej nr pf
  case srej16 nr pf => exact decode_encode_supervisory16 .srej nr pf
  case raw m p => exact decode_encode_raw hi
  case addr7 o => exact decode_encode_addr7 (by simpa [WellFormed] using hi)

/-- Settles O1: the decoder evaluates on each input. -/
theorem wordsWrittenOutDecode : Obligations.WordsWrittenOutDecode := by
  unfold Obligations.WordsWrittenOutDecode
  decide

end Sys2Proof
end

section
/-! Proofs about inputs that are answered outside the operations of R100: an unassigned command code, and an address
block or a raw region on its own (30_encoding.md R80, R100; 40_address_codec.md R121; 42_frame_parser.md R180). -/

namespace Sys2Proof.Machine

open Sys2Proof.Claims

/-- Settles O5: the table of R100 has no row for the code, so the decoder rejects it and the step refuses it. -/
theorem unassignedCommandCodesAreRefused : Obligations.UnassignedCommandCodesAreRefused := by
  intro s c bs rest h hc
  have hcode : opReader c = none := (opReader_eq_none_iff c).2 hc
  have hdecode : decode (.request (c :: bs)) = .error (.unknownOp c) := by simp [decode, decodeRequest, hcode]
  exact step_of_decode_error h hdecode

/-- Seven octets on their own are decoded whole (R80, R121). -/
theorem execAddr7_of_length {o : List Byte} (h : o.length = 7) (s : State) :
    execAddr7 o s = conclude s (do let a ← addrDec7 o; .ok (s.answer false 0 (.address a))) := by
  simp [execAddr7, raiseIf, h, List.take_of_length_le]

theorem promote_of_unrecognised {m : Modulus} {p : List Byte} (h : ctlDec p m = .ok .unrecognised) :
    promote p m = .ok (.raw p, true) := by
  simp only [promote, h]

/-- The cases of R180: no format claims the control field, or a supervisory claim is followed by further octets. -/
theorem promote_of_fallback {m : Modulus} {p : List Byte} (h : Fallback m p) : promote p m = .ok (.raw p, true) := by
  cases p with
  | nil => exact h.elim
  | cons c0 t =>
    obtain ⟨hclass, hui⟩ | ⟨hclass, rfl⟩ | ⟨hclass, rfl, ht⟩ | ⟨hclass, rfl, hnibble | ht⟩ := h
    · exact promote_of_unrecognised (by simp only [ctlDec, hclass, if_neg hui])
    · refine promote_of_unrecognised ?_
      cases hc : classOf c0 with
      | unnumbered => exact absurd hc hclass
      | supervisory | information => simp only [ctlDec, hc]
    · have hclaim : ctlDec (c0 :: t) .m8 = .ok (.claim (fieldS8 c0) 1) := by simp only [ctlDec, hclass]
      simp [promote, hclaim, fieldS8, ht]
    · exact promote_of_unrecognised (by simp only [ctlDec, hclass, if_pos hnibble])
    · by_cases hnibble : c0.extractLsb' 4 4 ≠ 0
      · exact promote_of_unrecognised (by simp only [ctlDec, hclass, if_pos hnibble])
      · obtain ⟨c1, t, rfl⟩ := List.exists_cons_of_length_pos (Nat.zero_lt_two.trans_le ht)
        have hclaim : ctlDec (c0 :: c1 :: t) .m128 = .ok (.claim (fieldS16 c0 c1) 2) := by
          simp only [ctlDec, hclass, if_neg hnibble]
        have hlong : (c0 :: c1 :: t).length ≠ 2 := by simp only [List.length_cons] at ht ⊢; omega
        simp only [promote, hclaim, fieldS16, if_pos hlong]

/-- Settles O15: both are the codec's own answers, the address decoded by R121 and the region kept by R180. -/
theorem bareAddressesAndRawRegionsArePerformed : Obligations.BareAddressesAndRawRegionsArePerformed := by
  refine ⟨fun o s ho => ⟨fun hvalid => ?_, fun hbad => ?_⟩, fun m p s h => ?_⟩
  · show execAddr7 o s = _
    rw [execAddr7_of_length ho, addrDec7, if_pos hvalid]
    rfl
  · show execAddr7 o s = _
    rw [execAddr7_of_length ho, addrDec7, if_neg (by simp [hbad]), ← State.stop_eq_stopped]
    rfl
  · show execRaw m p s = _
    rw [execRaw, promote_of_fallback h]
    rfl

end Sys2Proof.Machine
end

section
/-! Proofs about the address format: which callsigns are valid, and the seven octets of an Address
(40_address_codec.md R120 to R122, R127; 30_encoding.md R82, R83). -/

namespace Sys2Proof.Machine

open Sys2Proof.Claims

/-! ## Callsigns (R120) -/

theorem isCallChar_iff (c : Ch) : isCallChar c = true ↔ CallChar c := by
  simp [isCallChar, CallChar]

theorem validCall_iff (call : List Ch) :
    validCall call = true ↔ 1 ≤ call.length ∧ call.length ≤ 6 ∧ ∀ x ∈ call, CallChar x := by
  simp [validCall, isCallChar_iff, and_assoc]

theorem valid6_iff (c : List Ch) :
    valid6 c = true ↔ c.length = 6 ∧ trim c ≠ [] ∧ ∀ x ∈ c.dropWhile isCallChar, x = space := by
  simp [valid6, and_assoc]

theorem trim_append_dropWhile (c : List Ch) : trim c ++ c.dropWhile isCallChar = c :=
  List.takeWhile_append_dropWhile

/-- `trim` keeps exactly the call: no space is a call character. -/
theorem trim_append_spaces {w sp : List Ch} (hw : ∀ x ∈ w, CallChar x) (hsp : ∀ x ∈ sp, x = space) :
    trim (w ++ sp) = w ∧ (w ++ sp).dropWhile isCallChar = sp := by
  have hw' : ∀ x ∈ w, isCallChar x = true := fun x hx => (isCallChar_iff x).2 (hw x hx)
  rw [trim, List.takeWhile_append_of_pos hw', List.dropWhile_append_of_pos hw']
  cases sp with
  | nil => simp
  | cons x xs =>
    have hx : isCallChar x = false := by rw [hsp x List.mem_cons_self]; decide
    simp [hx]

theorem valid6_append_spaces {w sp : List Ch} (hlen : (w ++ sp).length = 6) (hne : w ≠ [])
    (hw : ∀ x ∈ w, CallChar x) (hsp : ∀ x ∈ sp, x = space) : valid6 (w ++ sp) = true := by
  obtain ⟨htrim, hrest⟩ := trim_append_spaces hw hsp
  exact (valid6_iff _).2 ⟨hlen, by rwa [htrim], by rwa [hrest]⟩

theorem pad6_length {call : List Ch} (h : call.length ≤ 6) : (pad6 call).length = 6 := by
  simp [pad6, h]

theorem getElem?_pad6_call {call : List Ch} {k : Nat} {c : Ch} (h : call[k]? = some c) : (pad6 call)[k]? = some c := by
  obtain ⟨hlt, -⟩ := List.getElem?_eq_some_iff.1 h
  rw [pad6, List.getElem?_append_left hlt, h]

theorem getElem?_pad6_space {call : List Ch} {k : Nat} (h : call.length ≤ k) (h6 : k < 6) :
    (pad6 call)[k]? = some space := by
  rw [pad6, List.getElem?_append_right h, List.getElem?_replicate_of_lt (by omega)]

theorem valid6_pad6 {call : List Ch} (h : validCall call = true) : valid6 (pad6 call) = true := by
  obtain ⟨hpos, hle, hchars⟩ := (validCall_iff call).1 h
  exact valid6_append_spaces (pad6_length hle) (List.ne_nil_of_length_pos hpos) hchars
    fun _ => List.eq_of_mem_replicate

theorem trim_pad6 {call : List Ch} (h : validCall call = true) : trim (pad6 call) = call := by
  obtain ⟨-, -, hchars⟩ := (validCall_iff call).1 h
  exact (trim_append_spaces hchars fun _ => List.eq_of_mem_replicate).1

/-- Padding gives back the six characters that `trim` shortened. -/
theorem pad6_trim {c : List Ch} (h : valid6 c = true) : pad6 (trim c) = c := by
  obtain ⟨hlen, -, hspaces⟩ := (valid6_iff c).1 h
  have hsplit := trim_append_dropWhile c
  have hcount : (c.dropWhile isCallChar).length = 6 - (trim c).length := by
    have hsum := congrArg List.length hsplit
    rw [List.length_append] at hsum
    omega
  rw [pad6, ← List.eq_replicate_iff.2 ⟨hcount, hspaces⟩, hsplit]

/-- Settles O8: the split of the six characters is the one `trim` and `dropWhile` make. -/
theorem callsignValidityIsTheSpecs : Obligations.CallsignValidityIsTheSpecs := by
  refine ⟨fun c hlen => ⟨fun h => ?_, ?_⟩, ?_, validCall_iff, fun _ => rfl,
    fun call h => ⟨valid6_pad6 h, trim_pad6 h⟩⟩
  · obtain ⟨hpos, hle, hchars⟩ := (validCall_iff _).1 (validCall_trim h)
    obtain ⟨-, -, hspaces⟩ := (valid6_iff c).1 h
    have hsplit := trim_append_dropWhile c
    have htake : c.take (trim c).length = trim c := 
      (List.prefix_iff_eq_take.1 (List.takeWhile_prefix isCallChar)).symm
    have hdrop : c.drop (trim c).length = c.dropWhile isCallChar := by
      simpa [hsplit] using List.drop_left (l₁ := trim c) (l₂ := c.dropWhile isCallChar)
    exact ⟨(trim c).length, hpos, hle, by rwa [htake], by rwa [hdrop]⟩
  · rintro ⟨n, hpos, -, hw, hsp⟩
    have hne : c.take n ≠ [] := List.ne_nil_of_length_pos (by rw [List.length_take]; omega)
    simpa only [List.take_append_drop] using
      valid6_append_spaces (by rwa [List.take_append_drop]) hne hw hsp
  · intro c n _ _ _ hw hsp
    simpa only [List.take_append_drop] using (trim_append_spaces hw hsp).1

/-! ## Octets of an address block (R81, R82) -/

/-- A character as an octet of an address block. -/
def chOctet (c : Ch) : Byte := (c.setWidth 8 : Byte) <<< 1

/-- The character an octet of an address block carries. -/
def octetCh (b : Byte) : Ch := (b >>> 1 : Byte).setWidth 7

theorem blockChars_eq (o : List Byte) : blockChars o = (o.take 6).map octetCh := rfl

theorem addrEnc7_eq (a : Address) : addrEnc7 a = (pad6 a.call).map chOctet ++ [ssidOctet a] := rfl

theorem chOctet_toNat (c : Ch) : (chOctet c).toNat = 2 * c.toNat := by
  rw [chOctet, BitVec.toNat_shiftLeft, BitVec.toNat_setWidth, Nat.shiftLeft_eq]
  omega

theorem octetCh_chOctet (c : Ch) : octetCh (chOctet c) = c := by revert c; decide

/-- Bit 0 of a callsign octet is lost (R83). -/
theorem chOctet_octetCh (b : Byte) : chOctet (octetCh b) = b &&& 0xFE := by revert b; decide

theorem and_0xFE_eq_self_iff (b : Byte) : b &&& 0xFE = b ↔ b.getLsbD 0 = false := by revert b; decide

/-- The seventh octet's fields, from bit 7 down (R82). -/
theorem ssidOctet_eq (a : Address) :
    ssidOctet a = BitVec.ofBool a.ch ++ a.rsv ++ a.ssid ++ BitVec.ofBool a.ext := by
  obtain ⟨call, ssid, ch, rsv, ext⟩ := a
  simp only [ssidOctet]
  revert ssid ch rsv ext
  decide

/-- Each field of the seventh octet reads back (R82). -/
theorem ssidOctet_fields (a : Address) :
    (ssidOctet a).extractLsb' 1 4 = a.ssid ∧ (ssidOctet a).getLsbD 7 = a.ch ∧
      (ssidOctet a).extractLsb' 5 2 = a.rsv ∧ (ssidOctet a).getLsbD 0 = a.ext := by
  obtain ⟨call, ssid, ch, rsv, ext⟩ := a
  simp only [ssidOctet]
  revert ssid ch rsv ext
  decide

/-- The Address a block stands for when its callsign is valid (R121). -/
def blockAddress (o : List Byte) : Address :=
  ⟨trim (blockChars o), (octet o 6).extractLsb' 1 4, (octet o 6).getLsbD 7, (octet o 6).extractLsb' 5 2,
    (octet o 6).getLsbD 0⟩

theorem addrDec7_of_valid6 {o : List Byte} (h : valid6 (blockChars o) = true) : addrDec7 o = .ok (blockAddress o) := by
  simp [addrDec7, h, blockAddress]

theorem addrDec7_of_not_valid6 {o : List Byte} (h : valid6 (blockChars o) = false) :
    addrDec7 o = .error (.raise (.malformedAddress (.block o))) := by
  simp [addrDec7, h]

theorem addrDec7_eq_ok {o : List Byte} {a : Address} :
    addrDec7 o = .ok a ↔ valid6 (blockChars o) = true ∧ a = blockAddress o := by
  cases h : valid6 (blockChars o) with
  | true => simp [addrDec7_of_valid6 h, eq_comm]
  | false => simp [addrDec7_of_not_valid6 h]

/-- The seventh octet is the one its fields encode to. -/
theorem ssidOctet_blockAddress (o : List Byte) : ssidOctet (blockAddress o) = octet o 6 := by
  simp only [ssidOctet, blockAddress]
  generalize octet o 6 = f
  revert f
  decide

/-! ## The encoder (R122) -/

theorem octet_of_getElem? {l : List Byte} {k : Nat} {b : Byte} (h : l[k]? = some b) : octet l k = b := by
  simp [octet, h]

/-- The first six octets are those of the padded callsign. -/
theorem octet_addrEnc7_of_getElem?_pad6 {a : Address} {k : Nat} {c : Ch} (hk : (pad6 a.call)[k]? = some c) :
    octet (addrEnc7 a) k = chOctet c := by
  obtain ⟨hlt, -⟩ := List.getElem?_eq_some_iff.1 hk
  refine octet_of_getElem? ?_
  rw [addrEnc7_eq, List.getElem?_append_left (by simpa using hlt), List.getElem?_map, hk, Option.map_some]

section
variable {a : Address} (h : a.call.length ≤ 6)
include h

theorem addrEnc7_length : (addrEnc7 a).length = 7 := by
  simp [addrEnc7_eq, pad6_length h]

theorem octet_addrEnc7_six : octet (addrEnc7 a) 6 = ssidOctet a := by
  simp [octet, addrEnc7_eq, pad6_length h]

theorem blockChars_addrEnc7 : blockChars (addrEnc7 a) = pad6 a.call := by
  have htake : (addrEnc7 a).take 6 = (pad6 a.call).map chOctet := List.take_left' (by simp [pad6_length h])
  simp [blockChars_eq, htake, Function.comp_def, octetCh_chOctet]

end

/-- Settles O9: each octet by its own lemma about the encoder. -/
theorem addressEncodesToSevenOctets : Obligations.AddressEncodesToSevenOctets := by
  intro a ha
  obtain ⟨-, hle, -⟩ := (validCall_iff _).1 ha
  refine ⟨addrEnc7_length hle, fun k c hk => ?_, fun k hk h6 => ?_, ?_⟩
  · rw [octet_addrEnc7_of_getElem?_pad6 (getElem?_pad6_call hk), chOctet_toNat]
  · exact octet_addrEnc7_of_getElem?_pad6 (getElem?_pad6_space hk h6)
  · rw [octet_addrEnc7_six hle, ssidOctet_eq]

/-! ## Round trips (R127) -/

theorem addrDec7_addrEnc7 {a : Address} (h : a.valid = true) : addrDec7 (addrEnc7 a) = .ok a := by
  obtain ⟨-, hle, -⟩ := (validCall_iff _).1 h
  have hchars := blockChars_addrEnc7 hle
  obtain ⟨hssid, hch, hrsv, hext⟩ := ssidOctet_fields a
  refine addrDec7_eq_ok.2 ⟨hchars ▸ valid6_pad6 h, ?_⟩
  rw [blockAddress, hchars, trim_pad6 h, octet_addrEnc7_six hle, hssid, hch, hrsv, hext]

theorem addrEnc7_blockAddress {o : List Byte} (hlen : o.length = 7) (h : valid6 (blockChars o) = true) :
    addrEnc7 (blockAddress o) = (o.take 6).map (fun b => b &&& 0xFE) ++ o.drop 6 := by
  have hlast : o.drop 6 = [octet o 6] := by
    rw [List.drop_eq_getElem_cons (by omega), List.drop_eq_nil_of_le (by omega)]
    simp [octet, hlen]
  have hcall : (pad6 (blockAddress o).call).map chOctet = (o.take 6).map fun b => b &&& 0xFE := by
    rw [blockAddress, pad6_trim h, blockChars_eq, List.map_map]
    exact List.map_congr_left fun b _ => chOctet_octetCh b
  rw [addrEnc7_eq, hcall, ssidOctet_blockAddress, hlast]

/-- Settles O10: both directions of the codec, and injectivity from the first. -/
theorem addressCodecRoundTrips : Obligations.AddressCodecRoundTrips := by
  refine ⟨fun a => addrDec7_addrEnc7, fun o a hlen hdec => ?_, fun a b ha hb hab => ?_⟩
  · obtain ⟨hvalid, rfl⟩ := addrDec7_eq_ok.1 hdec
    have henc := addrEnc7_blockAddress hlen hvalid
    refine ⟨henc, ?_⟩
    calc addrEnc7 (blockAddress o) = o
        ↔ (o.take 6).map (fun b => b &&& 0xFE) ++ o.drop 6 = o.take 6 ++ o.drop 6 := by
          rw [henc, List.take_append_drop]
      _ ↔ ∀ b ∈ o.take 6, b &&& 0xFE = b := by
          simpa only [List.append_left_inj, List.map_id, id_eq] using
            List.map_inj_left (l := o.take 6) (f := fun b => b &&& 0xFE) (g := id)
      _ ↔ ∀ b ∈ o.take 6, b.getLsbD 0 = false := by simp only [and_0xFE_eq_self_iff]
  · have hdec := addrDec7_addrEnc7 ha
    rw [hab, addrDec7_addrEnc7 hb] at hdec
    exact (Except.ok.inj hdec).symm

end Sys2Proof.Machine
end

section
/-! Proofs about the address codec's operations, and about Address operands wherever an operation takes one
(40_address_codec.md R123 to R126; 30_encoding.md R98; 20_memory.md R56; 60_exceptions.md R267). -/

namespace Sys2Proof.Machine

open Sys2Proof.Claims

/-! ## Ends of an operation -/

theorem answer_false_zero (s : State) (r : Result) :
    s.answer false 0 r = { s with status := 0x00, resp := .ok r } := rfl

theorem conclude_stopped (s : State) (e : Stop) : conclude s (.error e) = .next (stopped s e) := by
  rw [conclude_error, State.stop_eq_stopped]

/-- An operation that produces octets within `LEN_MAX` ends as R56 says. -/
theorem produces_of_length_le {s : State} {r : List Byte} (h : r.length ≤ s.params.lenMax) :
    Produces (conclude s (s.produce r)) s r := by
  have hok := (produce_eq_ok s _ r).2 ⟨h, rfl⟩
  refine ⟨(s.emit r).answer false 0 .unit, by rw [hok, conclude_ok], fun a => ?_, rfl⟩
  simp [Memory.get_ofOctets]

/-! ## Address operands (R123) -/

theorem goodCall_iff (call : List Ch) (ssid : Nat) :
    GoodCall call ssid ↔ validCall call = true ∧ ssid ≤ 15 := by
  simp [GoodCall, validCall_iff, and_assoc]

theorem asAddress_of_good {a : AddrOperand} (h : Good a) : asAddress a = .ok (theAddress a) := by
  obtain ⟨hcall, hssid⟩ := (goodCall_iff _ _).1 h
  exact (asAddress_eq_ok a _).2 ⟨hcall, hssid, rfl⟩

theorem asAddress_of_not_good {a : AddrOperand} (h : ¬ Good a) :
    asAddress a = .error (badOperand a.call a.ssid) := by
  rw [Good, goodCall_iff] at h
  simp [asAddress, badOperand, -not_and, h]

theorem asAddresses_cons (a : AddrOperand) (as : List AddrOperand) :
    asAddresses (a :: as) = (asAddress a >>= fun x => asAddresses as >>= fun xs => .ok (x :: xs)) := by
  rw [asAddresses]
  cases asAddress a with
  | error e => rfl
  | ok x => cases asAddresses as <;> rfl

/-- The first operand that is no Address is the one reported. -/
theorem asAddresses_of_first_bad {x : AddrOperand} (hx : ¬ Good x) (after : List AddrOperand) :
    ∀ before : List AddrOperand, (∀ y ∈ before, Good y) →
      asAddresses (before ++ x :: after) = .error (badOperand x.call x.ssid)
  | [], _ => by rw [List.nil_append, asAddresses_cons, asAddress_of_not_good hx, bind_error]
  | y :: ys, h => by
    obtain ⟨hy, hys⟩ := List.forall_mem_cons.1 h
    rw [List.cons_append, asAddresses_cons, asAddress_of_good hy, asAddresses_of_first_bad hx after ys hys, bind_ok,
      bind_error]

/-! ## The operations -/

/-- Settles O11: the operands form an Address, or they do not. -/
theorem amkMakesAnAddress : Obligations.AmkMakesAnAddress := by
  intro call ssid ch rsv ext s
  refine ⟨rfl, fun h => ?_, fun h => ?_⟩ <;> show execAmk call ssid ch rsv ext s = _
  · have hop := asAddress_of_good (a := ⟨call, ssid, ch, rsv.getD 0b11, ext.getD false⟩) h
    rw [execAmk, hop, bind_ok, conclude_ok, answer_false_zero]
    rfl
  · have hop := asAddress_of_not_good (a := ⟨call, ssid, ch, rsv.getD 0b11, ext.getD false⟩) h
    rw [execAmk, hop, bind_error, conclude_stopped]

/-- With seven octets left, `ADEC` is `addr_dec7` of them (R124). -/
theorem execAdec_of_inside {off : Option Nat} {s : State} (h : off.getD 0 + 7 ≤ s.ilen) :
    execAdec off s =
      conclude s (do let a ← addrDec7 (s.memRead (off.getD 0) 7); .ok (s.answer false 0 (.address a))) := by
  rw [execAdec, (raiseIf_eq_ok _ _ ()).2 (Nat.not_lt.2 h), bind_ok]

theorem execAdec_of_short {off : Option Nat} {s : State} (h : s.ilen < off.getD 0 + 7) :
    execAdec off s = .next (stopped s (.raise (.malformedAddress (.short (s.ilen - off.getD 0))))) := by
  rw [execAdec, (raiseIf_eq_error _ _ _).2 ⟨h, rfl⟩, bind_error, conclude_stopped]

/-- Settles O12: too few octets, a callsign that is valid, one that is not. -/
theorem adecDecodesTheBlockAtAnOffset : Obligations.AdecDecodesTheBlockAtAnOffset := by
  intro off s
  refine ⟨rfl, fun h => ⟨_, execAdec_of_short h, fun _ => rfl⟩, ?_, ?_⟩
  · rintro o h rfl hvalid
    show execAdec off s = _
    rw [execAdec_of_inside h, addrDec7_of_valid6 hvalid, bind_ok, conclude_ok, answer_false_zero]
    rfl
  · rintro o h rfl hbad
    show execAdec off s = _
    rw [execAdec_of_inside h, addrDec7_of_not_valid6 hbad, bind_error, conclude_stopped]

theorem execAenc_of_good {a : AddrOperand} (h : Good a) (s : State) :
    execAenc a s = conclude s (s.produce (addrEnc7 (theAddress a))) := by
  rw [execAenc, asAddress_of_good h, bind_ok]

theorem execAenc_of_not_good {a : AddrOperand} (h : ¬ Good a) (s : State) :
    execAenc a s = .next (stopped s (badOperand a.call a.ssid)) := by
  rw [execAenc, asAddress_of_not_good h, bind_error, conclude_stopped]

/-- Settles O13: seven octets fit. -/
theorem aencWritesSevenOctets : Obligations.AencWritesSevenOctets := by
  refine fun a s => ⟨rfl, fun hgood hmax => ?_⟩
  have ⟨_, hle, _⟩ := hgood
  have hlen : (addrEnc7 (theAddress a)).length = 7 := addrEnc7_length hle
  show Produces (execAenc a s) s _
  rw [execAenc_of_good hgood]
  exact produces_of_length_le (by omega)

theorem execAstr_of_good {a : AddrOperand} (h : Good a) (s : State) :
    execAstr a s = conclude s (s.produce (astr (theAddress a))) := by
  rw [execAstr, asAddress_of_good h, bind_ok]

theorem execAstr_of_not_good {a : AddrOperand} (h : ¬ Good a) (s : State) :
    execAstr a s = .next (stopped s (badOperand a.call a.ssid)) := by
  rw [execAstr, asAddress_of_not_good h, bind_error, conclude_stopped]

/-- The text of R98: nothing for SSID 0, one digit up to 9, two from 10 on. -/
theorem astr_theAddress {a : AddrOperand} (h : a.ssid ≤ 15) : astr (theAddress a) = addressText a.call a.ssid := by
  have hnat : (BitVec.ofNat 4 a.ssid).toNat = a.ssid := by rw [BitVec.toNat_ofNat]; omega
  have hzero : BitVec.ofNat 4 a.ssid = 0 ↔ a.ssid = 0 := by rw [← BitVec.toNat_inj, hnat]; rfl
  have hdigit : a.ssid < 10 ↔ a.ssid ≤ 9 := Nat.lt_succ_iff
  simp only [astr, theAddress, addressText, hzero, ssidText, hnat, hdigit]
  congr 1
  split_ifs <;> rfl

theorem addressText_length_le {call : List Ch} {ssid : Nat} (h : call.length ≤ 6) :
    (addressText call ssid).length ≤ 9 := by
  simp only [addressText, List.length_append, List.length_map]
  split_ifs <;> simp only [List.length_cons, List.length_nil] <;> omega

/-- Settles O14: the text is R98's and has at most nine octets, which fit. -/
theorem astrWritesTheAddressText : Obligations.AstrWritesTheAddressText := by
  refine fun a s => ⟨rfl, fun hgood hmax => ?_⟩
  have ⟨_, hle, _, hssid⟩ := hgood
  have hlen : (addressText a.call a.ssid).length ≤ 9 := addressText_length_le hle
  show Produces (execAstr a s) s _
  rw [execAstr_of_good hgood, astr_theAddress hssid]
  exact produces_of_length_le (by omega)

/-! ## Malformed operands of the constructors (R267) -/

/-- After the slot check, `mk_common` reads its Address operands in the order `dest`, `src`, `rpt`. -/
theorem make_of_bad_operands {a : MkArgs} {body : Except Stop Body} {s : State} {e : Stop} (hslot : a.d < s.nslot)
    (h : asAddresses (a.dest :: a.src :: a.rpt) = .error e) : make a body s = .next (stopped s e) := by
  have hcheck := (checkSlot_eq_ok s a.d ()).2 hslot
  simp only [asAddresses_cons, bind_eq_error, reduceCtorEq, and_false, exists_false, or_false] at h
  obtain hdest | ⟨dest, hdest, hsrc | ⟨src, hsrc, hrpt⟩⟩ := h
  · rw [make, hcheck, bind_ok, hdest, bind_error, conclude_stopped]
  · rw [make, hcheck, bind_ok, hdest, bind_ok, hsrc, bind_error, conclude_stopped]
  · rw [make, hcheck, bind_ok, hdest, bind_ok, hsrc, bind_ok, hrpt, bind_error, conclude_stopped]

/-- Every constructor is `mk_common` around a body of its own (R200). -/
theorem exec_constructor {a : MkArgs} {ns nr : Nat} {pf : Option Nat} {pid : Nat} {i : Instr}
    (h : i ∈ constructors a ns nr pf pid) (s : State) : ∃ body, exec i s = make a body s := by
  simp only [constructors, List.mem_cons, List.not_mem_nil, or_false] at h
  obtain rfl | rfl | rfl | rfl | rfl | rfl | rfl | rfl | rfl | rfl | rfl | rfl := h <;> exact ⟨_, rfl⟩

/-- Settles O16: every operation reads its operands through `asAddress`, which reports the first bad one. -/
theorem malformedOperandsAreAnsweredAsAmkAnswers : Obligations.MalformedOperandsAreAnsweredAsAmkAnswers := by
  refine ⟨fun a s h => ?_, fun a ns nr pf pid s before x after hslot hsplit hbefore hx i hi => ?_⟩
  · obtain ⟨-, -, hamk⟩ := amkMakesAnAddress a.call a.ssid a.ch (some a.rsv) (some a.ext) s
    exact ⟨execAenc_of_not_good h s, execAstr_of_not_good h s, (hamk h).trans (execAenc_of_not_good h s).symm⟩
  · obtain ⟨body, hexec⟩ := exec_constructor hi s
    exact hexec.trans (make_of_bad_operands hslot (hsplit ▸ asAddresses_of_first_bad hx after before hbefore))

end Sys2Proof.Machine
end

section
/-! Proofs about the control-field classifier (41_control_classifier.md R140, R142, R155): when `ctl_dec` claims a field,
and that a claim and `ctl_enc` are inverse to each other. -/

namespace Sys2Proof.Machine

open Sys2Proof.Claims

/-! ## The class of a control octet (R140) -/

theorem classOf_eq_information_iff (c0 : Byte) : classOf c0 = .information ↔ c0 &&& 0x01 = 0x00 := by
  revert c0; decide

theorem classOf_eq_supervisory_iff (c0 : Byte) : classOf c0 = .supervisory ↔ c0 &&& 0x03 = 0x01 := by
  revert c0; decide

theorem classOf_eq_unnumbered_iff (c0 : Byte) : classOf c0 = .unnumbered ↔ c0 &&& 0x03 = 0x03 := by
  revert c0; decide

/-- Settles O17: the classes of the 256 octets. -/
theorem classIsTheTwoLowBits : Obligations.ClassIsTheTwoLowBits := by
  unfold Obligations.ClassIsTheTwoLowBits
  decide

theorem and_0x03_of_ui {c0 : Byte} (h : c0 &&& 0xEF = 0x03) : c0 &&& 0x03 = 0x03 := by
  revert c0; decide

/-- The first octet of `S16`: class S with bits 7:4 clear (R148). -/
theorem and_0xF3_eq_iff (c0 : Byte) : c0 &&& 0xF3 = 0x01 ↔ c0 &&& 0x03 = 0x01 ∧ c0.extractLsb' 4 4 = 0 := by
  revert c0; decide

/-! ## `ctl_dec`, row by row (R142) -/

section
variable {c0 : Byte}

theorem ctlDec_ui (h : c0 &&& 0xEF = 0x03) (t : List Byte) (m : Modulus) :
    ctlDec (c0 :: t) m = .ok (.claim (.ui (c0.getLsbD 4)) 1) := by
  simp only [ctlDec, (classOf_eq_unnumbered_iff c0).2 (and_0x03_of_ui h), if_pos h]

theorem ctlDec_uother (hu : c0 &&& 0x03 = 0x03) (h : c0 &&& 0xEF ≠ 0x03) (t : List Byte) (m : Modulus) :
    ctlDec (c0 :: t) m = .ok .unrecognised := by
  simp only [ctlDec, (classOf_eq_unnumbered_iff c0).2 hu, if_neg h]

theorem ctlDec_i8 (h : c0 &&& 0x01 = 0x00) (t : List Byte) :
    ctlDec (c0 :: t) .m8 = .ok (.claim (fieldI8 c0) 1) := by
  simp only [ctlDec, (classOf_eq_information_iff c0).2 h]

theorem ctlDec_s8 (h : c0 &&& 0x03 = 0x01) (t : List Byte) :
    ctlDec (c0 :: t) .m8 = .ok (.claim (fieldS8 c0) 1) := by
  simp only [ctlDec, (classOf_eq_supervisory_iff c0).2 h]

theorem ctlDec_i16 (h : c0 &&& 0x01 = 0x00) (c1 : Byte) (t : List Byte) :
    ctlDec (c0 :: c1 :: t) .m128 = .ok (.claim (fieldI16 c0 c1) 2) := by
  simp only [ctlDec, (classOf_eq_information_iff c0).2 h]

theorem ctlDec_s16 (h : c0 &&& 0xF3 = 0x01) (c1 : Byte) (t : List Byte) :
    ctlDec (c0 :: c1 :: t) .m128 = .ok (.claim (fieldS16 c0 c1) 2) := by
  obtain ⟨hs, hhigh⟩ := (and_0xF3_eq_iff c0).1 h
  simp only [ctlDec, (classOf_eq_supervisory_iff c0).2 hs, hhigh, ne_eq, not_true_eq_false, if_false]

/-- A field of two octets without its second one is a fault (R142). -/
theorem ctlDec_m128_short (h : c0 &&& 0x01 = 0x00 ∨ c0 &&& 0xF3 = 0x01) :
    ctlDec [c0] .m128 = .error (.raise (.insufficientData .secondControlOctet)) := by
  obtain hi | hs := h
  · simp only [ctlDec, (classOf_eq_information_iff c0).2 hi]
  · obtain ⟨hs, hhigh⟩ := (and_0xF3_eq_iff c0).1 hs
    simp only [ctlDec, (classOf_eq_supervisory_iff c0).2 hs, hhigh, ne_eq, not_true_eq_false, if_false]

theorem ctlDec_m128_highNibble (hs : c0 &&& 0x03 = 0x01) (h : c0.extractLsb' 4 4 ≠ 0) (t : List Byte) :
    ctlDec (c0 :: t) .m128 = .ok .unrecognised := by
  simp only [ctlDec, (classOf_eq_supervisory_iff c0).2 hs, if_pos h]

theorem ctlDec_nomod (h : c0 &&& 0x03 ≠ 0x03) (t : List Byte) : ctlDec (c0 :: t) .nomod = .ok .unrecognised := by
  cases hc : classOf c0 with
  | unnumbered => exact absurd ((classOf_eq_unnumbered_iff c0).1 hc) h
  | supervisory | information => simp only [ctlDec, hc]

end

/-! ## Claims -/

/-- The octets begin with a field that `ctl_dec` claims under the modulus: the field and its length, a case per format
family (R142). -/
inductive Claimed : List Byte → Modulus → ControlField → Nat → Prop
  | ui {c0 : Byte} (h : c0 &&& 0xEF = 0x03) (t : List Byte) (m : Modulus) :
    Claimed (c0 :: t) m (.ui (c0.getLsbD 4)) 1
  | i8 {c0 : Byte} (h : c0 &&& 0x01 = 0x00) (t : List Byte) : Claimed (c0 :: t) .m8 (fieldI8 c0) 1
  | s8 {c0 : Byte} (h : c0 &&& 0x03 = 0x01) (t : List Byte) : Claimed (c0 :: t) .m8 (fieldS8 c0) 1
  | i16 {c0 : Byte} (h : c0 &&& 0x01 = 0x00) (c1 : Byte) (t : List Byte) :
    Claimed (c0 :: c1 :: t) .m128 (fieldI16 c0 c1) 2
  | s16 {c0 : Byte} (h : c0 &&& 0xF3 = 0x01) (c1 : Byte) (t : List Byte) :
    Claimed (c0 :: c1 :: t) .m128 (fieldS16 c0 c1) 2

theorem ctlDec_of_claimed {p : List Byte} {m : Modulus} {f : ControlField} {hl : Nat} (h : Claimed p m f hl) :
    ctlDec p m = .ok (.claim f hl) := by
  cases h with
  | ui h t m => exact ctlDec_ui h t m
  | i8 h t => exact ctlDec_i8 h t
  | s8 h t => exact ctlDec_s8 h t
  | i16 h c1 t => exact ctlDec_i16 h c1 t
  | s16 h c1 t => exact ctlDec_s16 h c1 t

/-- The octets begin with a control octet that no format claims under the modulus (R142). -/
inductive Unclaimed : List Byte → Modulus → Prop
  | uother {c0 : Byte} (hu : c0 &&& 0x03 = 0x03) (h : c0 &&& 0xEF ≠ 0x03) (t : List Byte) (m : Modulus) :
    Unclaimed (c0 :: t) m
  | nomod {c0 : Byte} (h : c0 &&& 0x03 ≠ 0x03) (t : List Byte) : Unclaimed (c0 :: t) .nomod
  | highNibble {c0 : Byte} (hs : c0 &&& 0x03 = 0x01) (h : c0.extractLsb' 4 4 ≠ 0) (t : List Byte) :
    Unclaimed (c0 :: t) .m128

theorem ctlDec_of_unclaimed {p : List Byte} {m : Modulus} (h : Unclaimed p m) : ctlDec p m = .ok .unrecognised := by
  cases h with
  | uother hu h t m => exact ctlDec_uother hu h t m
  | nomod h t => exact ctlDec_nomod h t
  | highNibble hs h t => exact ctlDec_m128_highNibble hs h t

theorem other_class_of_information {c0 : Byte} (h : c0 &&& 0x01 = 0x00) : c0 &&& 0x03 ≠ 0x03 := by
  revert c0; decide

theorem other_class_of_supervisory {c0 : Byte} (h : c0 &&& 0x03 = 0x01) : c0 &&& 0x03 ≠ 0x03 := by
  rw [h]; decide

/-- Everything `ctl_dec` can do with a control octet: a claim, no format, or a missing second octet. -/
theorem ctlDec_cons_cases (c0 : Byte) (t : List Byte) (m : Modulus) :
    (∃ f hl, Claimed (c0 :: t) m f hl) ∨
    Unclaimed (c0 :: t) m ∨
    (m = .m128 ∧ t = [] ∧ (c0 &&& 0x01 = 0x00 ∨ c0 &&& 0xF3 = 0x01)) := by
  cases hc : classOf c0 with
  | unnumbered =>
    have hu := (classOf_eq_unnumbered_iff c0).1 hc
    by_cases hui : c0 &&& 0xEF = 0x03
    · exact .inl ⟨_, _, .ui hui t m⟩
    · exact .inr (.inl (.uother hu hui t m))
  | information =>
    have hi := (classOf_eq_information_iff c0).1 hc
    cases m with
    | nomod => exact .inr (.inl (.nomod (other_class_of_information hi) t))
    | m8 => exact .inl ⟨_, _, .i8 hi t⟩
    | m128 =>
      cases t with
      | nil => exact .inr (.inr ⟨rfl, rfl, .inl hi⟩)
      | cons c1 t => exact .inl ⟨_, _, .i16 hi c1 t⟩
  | supervisory =>
    have hs := (classOf_eq_supervisory_iff c0).1 hc
    cases m with
    | nomod => exact .inr (.inl (.nomod (other_class_of_supervisory hs) t))
    | m8 => exact .inl ⟨_, _, .s8 hs t⟩
    | m128 =>
      by_cases hhigh : c0.extractLsb' 4 4 = 0
      · have hs16 := (and_0xF3_eq_iff c0).2 ⟨hs, hhigh⟩
        cases t with
        | nil => exact .inr (.inr ⟨rfl, rfl, .inr hs16⟩)
        | cons c1 t => exact .inl ⟨_, _, .s16 hs16 c1 t⟩
      · exact .inr (.inl (.highNibble hs hhigh t))

theorem ctlDec_eq_claim_iff (p : List Byte) (m : Modulus) (f : ControlField) (hl : Nat) :
    ctlDec p m = .ok (.claim f hl) ↔ Claimed p m f hl := by
  refine ⟨fun h => ?_, ctlDec_of_claimed⟩
  cases p with
  | nil => cases h
  | cons c0 t =>
    obtain ⟨f', hl', hclaim⟩ | hnone | ⟨rfl, rfl, hshort⟩ := ctlDec_cons_cases c0 t m
    · cases (ctlDec_of_claimed hclaim).symm.trans h
      exact hclaim
    · cases (ctlDec_of_unclaimed hnone).symm.trans h
    · cases (ctlDec_m128_short hshort).symm.trans h

/-! ## A claim is encoded to the octets claimed (R155 (b)) -/

theorem ctlEnc_ui {c0 : Byte} (h : c0 &&& 0xEF = 0x03) : ctlEnc (.ui (c0.getLsbD 4)) = [c0] := by
  revert c0; decide

theorem ctlEnc_fieldI8 {c0 : Byte} (h : c0 &&& 0x01 = 0x00) : ctlEnc (fieldI8 c0) = [c0] := by
  revert c0; decide

theorem ctlEnc_fieldS8 {c0 : Byte} (h : c0 &&& 0x03 = 0x01) : ctlEnc (fieldS8 c0) = [c0] := by
  revert c0; decide

/-- The second octet of a two-octet field, from its fields (R90). -/
theorem secondOctet_eq (c1 : Byte) : ((c1.extractLsb' 1 7).setWidth 8 <<< 1) ||| bit8 (c1.getLsbD 0) = c1 := by
  revert c1; decide

theorem ctlEnc_fieldI16 {c0 : Byte} (h : c0 &&& 0x01 = 0x00) (c1 : Byte) : ctlEnc (fieldI16 c0 c1) = [c0, c1] := by
  have hfirst : (c0.extractLsb' 1 7).setWidth 8 <<< 1 = c0 := by revert c0; decide
  rw [fieldI16, ctlEnc, hfirst, secondOctet_eq]

theorem ctlEnc_fieldS16 {c0 : Byte} (h : c0 &&& 0xF3 = 0x01) (c1 : Byte) : ctlEnc (fieldS16 c0 c1) = [c0, c1] := by
  have hfirst : ((stCode (stOfCode (c0.extractLsb' 2 2))).setWidth 8 <<< 2) ||| 0x01 = c0 := by revert c0; decide
  rw [fieldS16, ctlEnc, hfirst, secondOctet_eq]

theorem ctlEnc_of_claimed {p : List Byte} {m : Modulus} {f : ControlField} {hl : Nat} (h : Claimed p m f hl) :
    ctlEnc f = p.take hl ∧ hl ≤ p.length := by
  cases h with
  | ui h t m => exact ⟨ctlEnc_ui h, Nat.le_add_left 1 _⟩
  | i8 h t => exact ⟨ctlEnc_fieldI8 h, Nat.le_add_left 1 _⟩
  | s8 h t => exact ⟨ctlEnc_fieldS8 h, Nat.le_add_left 1 _⟩
  | i16 h c1 t => exact ⟨ctlEnc_fieldI16 h c1, Nat.le_add_left 2 _⟩
  | s16 h c1 t => exact ⟨ctlEnc_fieldS16 h c1, Nat.le_add_left 2 _⟩

/-! ## An encoded field is claimed (R155 (a)) -/

theorem ctlEnc_ui_fields (pf : Bool) :
    ∃ c0, ctlEnc (.ui pf) = [c0] ∧ c0 &&& 0xEF = 0x03 ∧ .ui (c0.getLsbD 4) = ControlField.ui pf := by
  refine ⟨_, rfl, ?_⟩
  revert pf; decide

theorem ctlEnc_i8_fields (ns nr : BitVec 3) (pf : Bool) :
    ∃ c0, ctlEnc (.i8 ns nr pf) = [c0] ∧ c0 &&& 0x01 = 0x00 ∧ fieldI8 c0 = .i8 ns nr pf := by
  refine ⟨_, rfl, ?_⟩
  revert ns nr pf; decide

theorem ctlEnc_s8_fields (st : Supervisory) (nr : BitVec 3) (pf : Bool) :
    ∃ c0, ctlEnc (.s8 st nr pf) = [c0] ∧ c0 &&& 0x03 = 0x01 ∧ fieldS8 c0 = .s8 st nr pf := by
  refine ⟨_, rfl, ?_⟩
  cases st <;> (revert nr pf; decide)

theorem secondOctet_fields (nr : BitVec 7) (pf : Bool) :
    ((nr.setWidth 8 <<< 1) ||| bit8 pf).extractLsb' 1 7 = nr ∧ ((nr.setWidth 8 <<< 1) ||| bit8 pf).getLsbD 0 = pf := by
  revert nr pf; decide

theorem ctlEnc_i16_fields (ns nr : BitVec 7) (pf : Bool) :
    ∃ c0 c1, ctlEnc (.i16 ns nr pf) = [c0, c1] ∧ c0 &&& 0x01 = 0x00 ∧ fieldI16 c0 c1 = .i16 ns nr pf := by
  have hfirst : (ns.setWidth 8 <<< 1) &&& 0x01 = (0x00 : Byte) ∧ (ns.setWidth 8 <<< 1 : Byte).extractLsb' 1 7 = ns := by
    revert ns; decide
  obtain ⟨hinfo, hns⟩ := hfirst
  obtain ⟨hnr, hpf⟩ := secondOctet_fields nr pf
  exact ⟨_, _, rfl, hinfo, by rw [fieldI16, hns, hnr, hpf]⟩

theorem ctlEnc_s16_fields (st : Supervisory) (nr : BitVec 7) (pf : Bool) :
    ∃ c0 c1, ctlEnc (.s16 st nr pf) = [c0, c1] ∧ c0 &&& 0xF3 = 0x01 ∧ fieldS16 c0 c1 = .s16 st nr pf := by
  obtain ⟨hnr, hpf⟩ := secondOctet_fields nr pf
  refine ⟨_, _, rfl, by cases st <;> rfl, ?_⟩
  rw [fieldS16, hnr, hpf]
  cases st <;> rfl

theorem claimed_ctlEnc_append {f : ControlField} {m : Modulus} (h : Needs f m) (t : List Byte) :
    Claimed (ctlEnc f ++ t) m f (ctlEnc f).length := by
  cases f with
  | ui pf =>
    obtain ⟨c0, henc, hui, hf⟩ := ctlEnc_ui_fields pf
    rw [henc, ← hf]
    exact .ui hui t m
  | i8 ns nr pf =>
    obtain rfl : m = .m8 := h
    obtain ⟨c0, henc, hi, hf⟩ := ctlEnc_i8_fields ns nr pf
    rw [henc, ← hf]
    exact .i8 hi t
  | s8 st nr pf =>
    obtain rfl : m = .m8 := h
    obtain ⟨c0, henc, hs, hf⟩ := ctlEnc_s8_fields st nr pf
    rw [henc, ← hf]
    exact .s8 hs t
  | i16 ns nr pf =>
    obtain rfl : m = .m128 := h
    obtain ⟨c0, c1, henc, hi, hf⟩ := ctlEnc_i16_fields ns nr pf
    rw [henc, ← hf]
    exact .i16 hi c1 t
  | s16 st nr pf =>
    obtain rfl : m = .m128 := h
    obtain ⟨c0, c1, henc, hs, hf⟩ := ctlEnc_s16_fields st nr pf
    rw [henc, ← hf]
    exact .s16 hs c1 t

/-- Settles O18: each law is read off `Claimed`; under `NONE` its only case is `UI`. -/
theorem controlFieldCodecRoundTrips : Obligations.ControlFieldCodecRoundTrips := by
  refine ⟨fun f t m h => ctlDec_of_claimed (claimed_ctlEnc_append h t),
    fun p m f hl h => ctlEnc_of_claimed ((ctlDec_eq_claim_iff p m f hl).1 h), fun p f hl h => ?_, by decide⟩
  cases (ctlDec_eq_claim_iff p .nomod f hl).1 h with
  | ui _ t m => exact ⟨_, rfl⟩

end Sys2Proof.Machine
end

section
/-! Proofs about the classifier's operation and the control formats on their own (41_control_classifier.md R141, R143 to
R153, R156; the bare carriage is log entry 2). -/

namespace Sys2Proof.Machine

open Sys2Proof.Claims

/-! ## `CCLS` (R141) -/

theorem asModulus_of_selects {sel : Option (BitVec 2)} {m : Modulus} (h : Selects sel m) : asModulus sel = .ok m :=
  (asModulus_eq_ok sel m).2 h

theorem classify_of_error {m : Modulus} {p : List Byte} {e : Stop} (h : ctlDec p m = .error e) (s : State) :
    classify s m p = .error e := by
  rw [classify, h, bind_error]

theorem okStatus_classified (dec : CtlResult) :
    okStatus (decide (dec = .unrecognised)) 0 = if dec = .unrecognised then 0x08 else 0x00 := by
  by_cases h : dec = .unrecognised <;> simp only [h, decide_true, decide_false, if_true, if_false] <;> rfl

theorem conclude_classify_of_ok {m : Modulus} {p : List Byte} {dec : CtlResult} (h : ctlDec p m = .ok dec) (s : State) :
    conclude s (classify s m p) = .next { s with
      status := if dec = .unrecognised then 0x08 else 0x00
      resp := .ok (.classified (classOf (octet p 0)) dec) } := by
  rw [(classify_eq_ok s _ m p).2 ⟨dec, h, rfl⟩, conclude_ok, State.answer, okStatus_classified]

theorem execCcls_of_short {sel : Option (BitVec 2)} {m : Modulus} {off : Option Nat} {s : State} (hsel : Selects sel m)
    (h : s.ilen < off.getD 0 + 1) :
    execCcls off sel s = .next (stopped s (.raise (.insufficientData .controlOctet))) := by
  rw [execCcls, asModulus_of_selects hsel, bind_ok, (raiseIf_eq_error _ _ _).2 ⟨h, rfl⟩, bind_error, conclude_stopped]

/-- With an octet left, `CCLS` is the classifier on the octets from the offset on. -/
theorem execCcls_of_inside {sel : Option (BitVec 2)} {m : Modulus} {off : Option Nat} {s : State} (hsel : Selects sel m)
    (h : off.getD 0 + 1 ≤ s.ilen) :
    execCcls off sel s = conclude s (classify s m (s.memRead (off.getD 0) (s.ilen - off.getD 0))) := by
  rw [execCcls, asModulus_of_selects hsel, bind_ok, (raiseIf_eq_ok _ _ ()).2 (Nat.not_lt.2 h), bind_ok]

/-- Settles O19: the checks in their order, then the classifier. -/
theorem cclsReportsClassAndClaim : Obligations.CclsReportsClassAndClaim := by
  refine fun off sel s => ⟨rfl, ?_, fun m hsel h => execCcls_of_short hsel h, ?_⟩
  · rintro rfl
    exact conclude_stopped s _
  · rintro m p hsel h rfl
    show (∀ e, _ → execCcls off sel s = _) ∧ ∀ dec, _ → execCcls off sel s = _
    rw [execCcls_of_inside hsel h]
    exact ⟨fun e he => by rw [classify_of_error he, conclude_stopped], fun dec hdec => conclude_classify_of_ok hdec s⟩

/-! ## A field as an instruction -/

/-- The instruction that carries a field on its own. -/
def fieldInstr : ControlField → Instr
  | .ui pf => .ui pf
  | .i8 ns nr pf => .i8 ns nr pf
  | .s8 st nr pf => supervisory8 st nr pf
  | .i16 ns nr pf => .i16 ns nr pf
  | .s16 st nr pf => supervisory16 st nr pf

/-- The modulus a field is carried under: the one it needs, and `M8` for `UI`, which needs none. -/
def fieldModulus : ControlField → Modulus
  | .ui _ | .i8 .. | .s8 .. => .m8
  | .i16 .. | .s16 .. => .m128

/-- The class of a field's format (R87). -/
def fieldClass : ControlField → FrameClass
  | .ui _ => .unnumbered
  | .i8 .. | .i16 .. => .information
  | .s8 .. | .s16 .. => .supervisory

theorem needs_fieldModulus (f : ControlField) : Needs f (fieldModulus f) := by
  cases f with
  | ui => trivial
  | i8 | s8 | i16 | s16 => rfl

theorem fieldModulus_of_claimed {p : List Byte} {m : Modulus} {f : ControlField} {hl : Nat} (h : Claimed p m f hl) :
    fieldModulus f = m ∨ ∃ pf, f = .ui pf := by
  cases h with
  | ui h t m => exact .inr ⟨_, rfl⟩
  | i8 | s8 | i16 | s16 => exact .inl rfl

theorem exec_fieldInstr (f : ControlField) (s : State) :
    exec (fieldInstr f) s = classifyField (fieldModulus f) f s := by
  cases f with
  | s8 st | s16 st => cases st <;> rfl
  | ui | i8 | i16 => rfl

theorem wellFormed_fieldInstr (f : ControlField) : WellFormed (fieldInstr f) = true := by
  cases f with
  | s8 st | s16 st => cases st <;> rfl
  | ui | i8 | i16 => rfl

theorem classOf_of_claimed {p : List Byte} {m : Modulus} {f : ControlField} {hl : Nat} (h : Claimed p m f hl) :
    classOf (octet p 0) = fieldClass f := by
  cases h with
  | ui h t m => exact (classOf_eq_unnumbered_iff _).2 (and_0x03_of_ui h)
  | i8 h | i16 h => exact (classOf_eq_information_iff _).2 h
  | s8 h t => exact (classOf_eq_supervisory_iff _).2 h
  | s16 h c1 t => exact (classOf_eq_supervisory_iff _).2 ((and_0xF3_eq_iff _).1 h).1

/-- A bare field is classified as itself: `ctl_dec` claims what `ctl_enc` gives (R155 (a)). -/
theorem exec_fieldInstr_classifies (f : ControlField) (s : State) : exec (fieldInstr f) s = .next { s with
    status := 0x00, resp := .ok (.classified (fieldClass f) (.claim f (ctlEnc f).length)) } := by
  have hclaim := claimed_ctlEnc_append (needs_fieldModulus f) []
  rw [List.append_nil] at hclaim
  rw [exec_fieldInstr, classifyField, conclude_classify_of_ok (ctlDec_of_claimed hclaim), classOf_of_claimed hclaim,
    if_neg nofun]

/-! ## Its encoding (R154) -/

/-- The second octet of a two-octet field: `nr` above `pf` (R90). -/
theorem secondOctet_append (nr : BitVec 7) (pf : Bool) :
    (nr ++ BitVec.ofBool pf : Byte) = (nr.setWidth 8 <<< 1) ||| bit8 pf := by
  revert nr pf; decide

/-- The encoder and `ctl_enc` give the same octets. -/
theorem encode_fieldInstr (f : ControlField) : encode (fieldInstr f) = .control (fieldModulus f) (ctlEnc f) := by
  cases f with
  | ui pf => revert pf; decide
  | i8 ns nr pf => revert ns nr pf; decide
  | s8 st nr pf => cases st <;> (revert nr pf; decide)
  | i16 ns nr pf =>
    have hfirst : (ns ++ 0b0#1 : Byte) = ns.setWidth 8 <<< 1 := by revert ns; decide
    simp only [fieldInstr, encode, fieldModulus, ctlEnc, hfirst, secondOctet_append]
  | s16 st nr pf =>
    cases st <;> exact congrArg (fun c1 => Item.control .m128 [_, c1]) (secondOctet_append nr pf)

/-! ## What a bare field decodes to -/

theorem decode_ui {c0 : Byte} (h : c0 &&& 0xEF = 0x03) (t : List Byte) (m : Modulus) :
    decode (.control m (c0 :: t)) = .ok (.ui (c0.getLsbD 4)) := by
  have hrow : readRow ctlURows c0 = some (.ui (c0.getLsbD 4)) := by rw [ctlURows, readRow_cons, if_pos h]
  simp only [decode, decodeControl, hrow]

theorem decode_uother {c0 : Byte} (hu : c0 &&& 0x03 = 0x03) (h : c0 &&& 0xEF ≠ 0x03) (t : List Byte) (m : Modulus) :
    decode (.control m (c0 :: t)) = .ok (.uother c0) := by
  have hrow : readRow ctlURows c0 = some (.uother c0) := by
    rw [ctlURows, readRow_cons, if_neg h, readRow_cons, if_pos hu]
  simp only [decode, decodeControl, hrow]

theorem readRow_ctl8Rows_information {c0 : Byte} (h : c0 &&& 0x01 = 0x00) :
    readRow ctl8Rows c0 = some (fieldInstr (fieldI8 c0)) := by
  rw [ctl8Rows, readRow_cons, if_pos h]; rfl

theorem readRow_ctl8Rows_supervisory {c0 : Byte} (h : c0 &&& 0x03 = 0x01) :
    readRow ctl8Rows c0 = some (fieldInstr (fieldS8 c0)) := by
  revert c0; decide

/-- `ctl16` read as two octets (R90). -/
theorem ctl16_fields (c0 c1 : Byte) : (c1 ++ c0).extractLsb' 1 7 = c0.extractLsb' 1 7 ∧
    (c1 ++ c0).extractLsb' 9 7 = c1.extractLsb' 1 7 ∧ (c1 ++ c0).getLsbD 8 = c1.getLsbD 0 :=
  ⟨BitVec.extractLsb'_append_eq_of_add_le (by decide), BitVec.extractLsb'_append_eq_of_le (by decide),
    BitVec.getLsbD_append⟩

theorem readRow_ctl16Rows_information {c0 : Byte} (h : c0 &&& 0x01 = 0x00) (c1 : Byte) :
    readRow ctl16Rows (c1 ++ c0) = some (fieldInstr (fieldI16 c0 c1)) := by
  obtain ⟨hns, hnr, hpf⟩ := ctl16_fields c0 c1
  rw [readRow_ctl16Rows, if_pos h, hns, hnr, hpf, fieldI16, fieldInstr]

theorem readS16_append (mk : BitVec 7 → Bool → Instr) (c0 c1 : Byte) :
    readS16 mk (c1 ++ c0) = mk (c1.extractLsb' 1 7) (c1.getLsbD 0) := by
  obtain ⟨-, hnr, hpf⟩ := ctl16_fields c0 c1
  rw [readS16, hnr, hpf]

theorem readRow_ctl16Rows_supervisory {c0 : Byte} (h : c0 &&& 0xF3 = 0x01) (c1 : Byte) :
    readRow ctl16Rows (c1 ++ c0) = some (fieldInstr (fieldS16 c0 c1)) := by
  have hsubtype : c0 = 0x01 ∨ c0 = 0x05 ∨ c0 = 0x09 ∨ c0 = 0x0D := by revert c0; decide
  rw [readRow_ctl16Rows]
  obtain rfl | rfl | rfl | rfl := hsubtype <;> exact congrArg some (readS16_append _ _ _)

/-- An octet of class I or S is read by the rows of R88 under `M8`, unless the region is raw. -/
theorem decode_m8 {c0 : Byte} {t : List Byte} {i : Instr} (hclass : c0 &&& 0x03 ≠ 0x03)
    (hraw : rawRegion .m8 (c0 :: t) = false) (hrow : readRow ctl8Rows c0 = some i) :
    decode (.control .m8 (c0 :: t)) = .ok i := by
  simp [decode, decodeControl, readRow_ctlURows_of_other_class hclass, hraw, hrow]

/-- Two octets of class I or S are read by the rows of R90 under `M128`, unless the region is raw. -/
theorem decode_m128 {c0 c1 : Byte} {t : List Byte} {i : Instr} (hclass : c0 &&& 0x03 ≠ 0x03)
    (hraw : rawRegion .m128 (c0 :: c1 :: t) = false) (hrow : readRow ctl16Rows (c1 ++ c0) = some i) :
    decode (.control .m128 (c0 :: c1 :: t)) = .ok i := by
  simp [decode, decodeControl, readRow_ctlURows_of_other_class hclass, hraw, hrow]

/-- A claimed field is decoded to its instruction, unless a supervisory claim leaves octets over (R180). -/
theorem decode_of_claimed {p : List Byte} {m : Modulus} {f : ControlField} {hl : Nat} (h : Claimed p m f hl)
    (hraw : rawRegion m p = false) : decode (.control m p) = .ok (fieldInstr f) := by
  cases h with
  | ui h t m => exact decode_ui h t m
  | i8 h t => exact decode_m8 (other_class_of_information h) hraw (readRow_ctl8Rows_information h)
  | s8 h t => exact decode_m8 (other_class_of_supervisory h) hraw (readRow_ctl8Rows_supervisory h)
  | i16 h c1 t => exact decode_m128 (other_class_of_information h) hraw (readRow_ctl16Rows_information h c1)
  | s16 h c1 t =>
    exact decode_m128 (other_class_of_supervisory ((and_0xF3_eq_iff _).1 h).1) hraw (readRow_ctl16Rows_supervisory h c1)

theorem uotherOctet_iff (c0 : Byte) : uotherOctet c0 = true ↔ c0 &&& 0x03 = 0x03 ∧ c0 &&& 0xEF ≠ 0x03 := by
  revert c0; decide

theorem and_0xF0_of_highNibble {c0 : Byte} (h : c0.extractLsb' 4 4 ≠ 0) : c0 &&& 0xF0 ≠ 0x00 := by
  revert c0; decide

/-- An octet that no format claims and that leaves no raw region is `UOTHER`'s. -/
theorem uotherOctet_of_unclaimed {c0 : Byte} {t : List Byte} {m : Modulus} (h : Unclaimed (c0 :: t) m)
    (hraw : rawRegion m (c0 :: t) = false) : uotherOctet c0 = true := by
  cases h with
  | uother hu h => exact (uotherOctet_iff c0).2 ⟨hu, h⟩
  | nomod h =>
    have hu : c0 &&& 0x03 = 0x03 := by simpa [rawRegion] using hraw
    exact absurd hu h
  | highNibble hs h =>
    have hlow : c0 &&& 0x03 ≠ 0x03 → c0 &&& 0x03 = 0x01 → c0 &&& 0xF0 = 0x00 ∧ t.length ≤ 1 := by
      simpa [rawRegion] using hraw
    exact absurd (hlow (other_class_of_supervisory hs) hs).1 (and_0xF0_of_highNibble h)

/-- Settles O3: the region is raw, or no format claims its class U octet, or it is decoded to the field claimed. -/
theorem bareFieldsEncodeToTheirOctets : Obligations.BareFieldsEncodeToTheirOctets := by
  intro m p i hdecode
  cases hraw : rawRegion m p with
  | true =>
    obtain rfl : Instr.raw m p = i := Except.ok.inj ((decode_encode_raw hraw).symm.trans hdecode)
    exact ⟨hraw, .inl ⟨rfl, rfl⟩⟩
  | false =>
    cases p with
    | nil => cases hdecode
    | cons c0 t =>
      obtain ⟨f, hl, hclaim⟩ | hnone | ⟨rfl, rfl, hshort⟩ := ctlDec_cons_cases c0 t m
      · obtain rfl : fieldInstr f = i := Except.ok.inj ((decode_of_claimed hclaim hraw).symm.trans hdecode)
        obtain ⟨henc, -⟩ := ctlEnc_of_claimed hclaim
        exact ⟨wellFormed_fieldInstr f, .inr (.inr ⟨f, hl, fieldModulus f, ctlDec_of_claimed hclaim, henc,
          henc ▸ encode_fieldInstr f, needs_fieldModulus f, fieldModulus_of_claimed hclaim⟩)⟩
      · have hother := uotherOctet_of_unclaimed hnone hraw
        obtain ⟨hu, hui⟩ := (uotherOctet_iff c0).1 hother
        obtain rfl : Instr.uother c0 = i := Except.ok.inj ((decode_uother hu hui t m).symm.trans hdecode)
        exact ⟨hother, .inr (.inl ⟨c0, t, rfl, rfl, ctlDec_of_unclaimed hnone, rfl⟩)⟩
      · cases (decode_shortControl c0 hshort).symm.trans hdecode

/-! ## The formats, row by row -/

/-- Settles O20: the rows of R143 and R145. -/
theorem informationFormats : Obligations.InformationFormats :=
  ⟨fun ns nr pf s => ⟨encode_fieldInstr (.i8 ns nr pf), exec_fieldInstr_classifies (.i8 ns nr pf) s⟩,
    fun _ h => ⟨ctlDec_i8 h [], ctlDec_nomod (other_class_of_information h) [], ctlDec_m128_short (.inl h)⟩,
    fun ns nr pf s => ⟨encode_fieldInstr (.i16 ns nr pf), exec_fieldInstr_classifies (.i16 ns nr pf) s⟩,
    fun _ c1 h => ctlDec_i16 h c1 []⟩

/-- Bits 3:0 of a supervisory octet (R88, R91). -/
def stPattern (st : Supervisory) : Byte := ((stCode st).setWidth 8 <<< 2) ||| 0x01

theorem ctlEnc_s8 (st : Supervisory) (nr : BitVec 3) (pf : Bool) :
    ctlEnc (.s8 st nr pf) = [(nr.setWidth 8 <<< 5) ||| (bit8 pf <<< 4) ||| stPattern st] := by
  rw [ctlEnc, BitVec.or_assoc, stPattern]

theorem supervisory_of_lowNibble {c0 : Byte} {st : Supervisory} (h : c0 &&& 0x0F = stPattern st) :
    c0 &&& 0x03 = 0x01 ∧ stOfCode (c0.extractLsb' 2 2) = st := by
  revert c0; cases st <;> decide

/-- Settles O21: each row is the format of its subtype. -/
theorem supervisoryFormatsModulo8 : Obligations.SupervisoryFormatsModulo8 := by
  intro row hrow
  have hst : ∃ st, row = (st, supervisory8 st, stPattern st) := by
    simp only [List.mem_cons, List.not_mem_nil, or_false] at hrow
    obtain rfl | rfl | rfl | rfl := hrow
    exacts [⟨.rr, rfl⟩, ⟨.rnr, rfl⟩, ⟨.rej, rfl⟩, ⟨.srej, rfl⟩]
  obtain ⟨st, rfl⟩ := hst
  refine ⟨fun nr pf s => ⟨?_, exec_fieldInstr_classifies (.s8 st nr pf) s⟩, fun c0 h => ?_⟩
  · exact (encode_fieldInstr (.s8 st nr pf)).trans (congrArg (Item.control .m8) (ctlEnc_s8 st nr pf))
  · obtain ⟨hs, hsubtype⟩ := supervisory_of_lowNibble h
    have hfield : fieldS8 c0 = .s8 st (c0.extractLsb' 5 3) (c0.getLsbD 4) := by rw [fieldS8, hsubtype]
    have hclaim : Claimed [c0] .m8 (.s8 st (c0.extractLsb' 5 3) (c0.getLsbD 4)) 1 := hfield ▸ .s8 hs []
    have hraw : rawRegion .m8 [c0] = false := by simp [rawRegion]
    exact ⟨ctlDec_of_claimed hclaim, decode_of_claimed hclaim hraw⟩

theorem stPattern_fields (st : Supervisory) :
    stPattern st &&& 0xF3 = 0x01 ∧ stOfCode ((stPattern st).extractLsb' 2 2) = st := by
  cases st <;> decide

theorem and_0x03_of_lowNibble {c0 : Byte} {st : Supervisory}
    (h : c0.extractLsb' 0 4 = (stPattern st).extractLsb' 0 4) : c0 &&& 0x03 = 0x01 := by
  revert c0; cases st <;> decide

/-- Settles O22: each row is the format of its subtype, whose first octet is a constant. -/
theorem supervisoryFormatsModulo128 : Obligations.SupervisoryFormatsModulo128 := by
  intro row hrow
  have hst : ∃ st, row = (st, supervisory16 st, stPattern st) := by
    simp only [List.mem_cons, List.not_mem_nil, or_false] at hrow
    obtain rfl | rfl | rfl | rfl := hrow
    exacts [⟨.rr, rfl⟩, ⟨.rnr, rfl⟩, ⟨.rej, rfl⟩, ⟨.srej, rfl⟩]
  obtain ⟨st, rfl⟩ := hst
  obtain ⟨hs16, hsubtype⟩ := stPattern_fields st
  refine ⟨fun nr pf s => ⟨encode_fieldInstr (.s16 st nr pf), exec_fieldInstr_classifies (.s16 st nr pf) s⟩, fun c1 => ?_,
    ctlDec_m128_short (.inr hs16), fun c0 t hlow hhigh => ctlDec_m128_highNibble (and_0x03_of_lowNibble hlow) hhigh t⟩
  have hfield : fieldS16 (stPattern st) c1 = .s16 st (c1.extractLsb' 1 7) (c1.getLsbD 0) := by rw [fieldS16, hsubtype]
  have hclaim : Claimed [stPattern st, c1] .m128 (.s16 st (c1.extractLsb' 1 7) (c1.getLsbD 0)) 2 :=
    hfield ▸ .s16 hs16 c1 []
  obtain ⟨-, hraw⟩ := sixteenBit_octet_unclaimed (stPattern st) (.inr hs16)
  exact ⟨ctlDec_of_claimed hclaim, decode_of_claimed hclaim hraw⟩

/-- Settles O23: the rows of R152 and R153, which look at the octet alone. -/
theorem unnumberedFormats : Obligations.UnnumberedFormats := by
  refine ⟨fun pf s => ⟨encode_fieldInstr (.ui pf), exec_fieldInstr_classifies (.ui pf) s⟩,
    fun c0 t m h => ⟨ctlDec_ui h t m, decode_ui h t m⟩, by decide, fun c0 t m s hu h => ⟨ctlDec_uother hu h t m, ?_⟩⟩
  have hclass : classOf (octet [c0] 0) = .unnumbered := (classOf_eq_unnumbered_iff c0).2 hu
  show conclude s (classify s .m8 [c0]) = _
  rw [conclude_classify_of_ok (ctlDec_uother hu h [] .m8), hclass, if_pos rfl]

end Sys2Proof.Machine
end

section
/-! Proofs about phase 1 of the frame parser (42_frame_parser.md R170, R171): which octet strings the address scan
accepts, and what `parse_raw` reads from them. -/

namespace Sys2Proof.Machine

/-! ## The address scan (R170) -/

/-- From block `k` on, the loop finds the first block marked last when an octet follows it. -/
theorem scanLoop_of_marks {b : List Byte} {n : Nat} (hlen : 7 * n + 1 ≤ b.length) : ∀ fuel k : Nat, 0 < k → k ≤ n →
    n < k + fuel → (∀ i, k ≤ i + 1 → i < n → blockExt b i = decide (i + 1 = n)) → scanLoop b fuel k = .ok n := by
  intro fuel
  induction fuel with
  | zero => intro k _ hkn hfuel; omega
  | succ fuel ih =>
    intro k hk hkn hfuel hbits
    have hbit : (octet b (7 * k - 1)).getLsbD 0 = decide (k = n) := by
      have hlast := hbits (k - 1) (by omega) (by omega)
      rwa [blockExt, show 7 * (k - 1) + 6 = 7 * k - 1 by omega, show k - 1 + 1 = k by omega] at hlast
    obtain rfl | hlt := hkn.eq_or_lt
    · simp only [scanLoop, hbit, decide_true, Bool.true_eq_false, if_false, if_neg (Nat.not_lt.2 hlen)]
    · have hroom : ¬ b.length < 7 * k + 7 := by omega
      simp only [scanLoop, hbit, decide_eq_false hlt.ne, if_true, if_neg hroom]
      exact ih (k + 1) (by omega) hlt (by omega) fun i hi => hbits i (by omega)

/-- The scan gives `k` exactly when at least two blocks precede a control octet and, of the first `k`, the last alone
is marked last. -/
theorem scanAddresses_eq_ok_iff (b : List Byte) (k : Nat) : scanAddresses b = .ok k ↔
    2 ≤ k ∧ 7 * k + 1 ≤ b.length ∧ ∀ i, i < k → blockExt b i = decide (i + 1 = k) := by
  refine ⟨scanAddresses_ok, fun ⟨hk, hlen, hbits⟩ => ?_⟩
  have hdest : (octet b 6).getLsbD 0 = false := (hbits 0 (by omega)).trans (decide_eq_false (by omega))
  have hroom : ¬ b.length < 14 := by omega
  simp only [scanAddresses, if_neg hroom, hdest, Bool.false_eq_true, if_false]
  exact scanLoop_of_marks hlen _ 2 (by omega) hk (by omega) fun i _ => hbits i

/-- The last of `k` blocks is the one marked last: bit by bit, as R170 says it. -/
theorem blockExt_marks_iff {b : List Byte} {k : Nat} (hk : 2 ≤ k) :
    (∀ i, i < k → blockExt b i = decide (i + 1 = k)) ↔
      (∀ i, i + 1 < k → (octet b (7 * i + 6)).getLsbD 0 = false) ∧ (octet b (7 * k - 1)).getLsbD 0 = true := by
  have hlast : blockExt b (k - 1) = (octet b (7 * k - 1)).getLsbD 0 := by
    rw [blockExt, show 7 * (k - 1) + 6 = 7 * k - 1 by omega]
  constructor
  · intro hbits
    exact ⟨fun i hi => (hbits i (by omega)).trans (decide_eq_false (by omega)),
      hlast ▸ (hbits (k - 1) (by omega)).trans (decide_eq_true (by omega))⟩
  · rintro ⟨hclear, hset⟩ i hi
    obtain h | h : i + 1 = k ∨ i + 1 < k := by omega
    · obtain rfl : i = k - 1 := by omega
      rw [hlast, hset, decide_eq_true h]
    · exact (hclear i h).trans (decide_eq_false h.ne).symm

theorem scanLoop_error {b : List Byte} : ∀ (fuel k : Nat) (e : Stop), scanLoop b fuel k = .error e →
    ∃ w, e = .raise (.insufficientData w) := by
  intro fuel
  induction fuel with
  | zero => rintro k e ⟨⟩; exact ⟨_, rfl⟩
  | succ fuel ih =>
    intro k e h
    unfold scanLoop at h
    split at h
    · split at h
      · cases h; exact ⟨_, rfl⟩
      · exact ih (k + 1) e h
    · split at h
      · cases h; exact ⟨_, rfl⟩
      · cases h

/-- Every failure of the scan is `InsufficientData`. -/
theorem scanAddresses_error {b : List Byte} {e : Stop} (h : scanAddresses b = .error e) :
    ∃ w, e = .raise (.insufficientData w) := by
  unfold scanAddresses at h
  split at h
  · cases h; exact ⟨_, rfl⟩
  · split at h
    · cases h; exact ⟨_, rfl⟩
    · exact scanLoop_error _ _ e h

/-- Settles O24: the scan's two characterisations, with the marks read bit by bit. -/
theorem scanFindsTheBlockMarkedLast : Obligations.ScanFindsTheBlockMarkedLast := by
  refine ⟨fun b k => ?_, fun b e => scanAddresses_error⟩
  rw [scanAddresses_eq_ok_iff]
  exact and_congr_right fun hk => and_congr_right fun _ => blockExt_marks_iff hk

/-! ## The address blocks (R171) -/

theorem decodeBlocks_succ (b : List Byte) (i n : Nat) : decodeBlocks b i (n + 1) =
    (addrDec7 (slice b (7 * i) 7) >>= fun a => decodeBlocks b (i + 1) n >>= fun rest => .ok (a :: rest)) := by
  rw [decodeBlocks]
  cases addrDec7 (slice b (7 * i) 7) with
  | error e => rfl
  | ok a => cases decodeBlocks b (i + 1) n <;> rfl

/-- The blocks decode to a list of addresses exactly when each block decodes to its entry. -/
theorem decodeBlocks_eq_ok_iff (b : List Byte) : ∀ (n i : Nat) (as : List Address), decodeBlocks b i n = .ok as ↔
    as.length = n ∧ ∀ j a, as[j]? = some a → addrDec7 (slice b (7 * (i + j)) 7) = .ok a := by
  intro n
  induction n with
  | zero =>
    intro i as
    rw [decodeBlocks, Except.ok.injEq, eq_comm, List.length_eq_zero_iff]
    exact ⟨by rintro rfl; simp, And.left⟩
  | succ n ih =>
    intro i as
    simp only [decodeBlocks_succ, bind_eq_ok, ih, Except.ok.injEq]
    constructor
    · rintro ⟨a, ha, rest, ⟨hlen, hrest⟩, rfl⟩
      refine ⟨by rw [List.length_cons, hlen], fun j x hx => ?_⟩
      cases j with
      | zero => cases hx; exact ha
      | succ j => rw [← Nat.add_assoc, Nat.add_right_comm]; exact hrest j x hx
    · rintro ⟨hlen, hall⟩
      obtain ⟨a, rest, rfl⟩ := List.exists_cons_of_length_eq_add_one hlen
      refine ⟨a, hall 0 a rfl, rest, ⟨Nat.succ.inj hlen, fun j x hx => ?_⟩, rfl⟩
      rw [Nat.add_right_comm, Nat.add_assoc]
      exact hall (j + 1) x hx

/-- The lowest block that does not decode is the one reported. -/
theorem decodeBlocks_of_first_bad {b : List Byte} {j : Nat} {e : Stop}
    (hbad : addrDec7 (slice b (7 * j) 7) = .error e) :
    ∀ n i : Nat, i ≤ j → j < i + n → (∀ j', i ≤ j' → j' < j → ∃ a, addrDec7 (slice b (7 * j') 7) = .ok a) →
      decodeBlocks b i n = .error e := by
  intro n
  induction n with
  | zero => intro i _ _ _; omega
  | succ n ih =>
    intro i hij hjn hgood
    obtain rfl | hlt := hij.eq_or_lt
    · rw [decodeBlocks_succ, hbad, bind_error]
    · obtain ⟨a, ha⟩ := hgood i le_rfl hlt
      have hrest := ih (i + 1) hlt (by omega) fun j' hj' => hgood j' (by omega)
      rw [decodeBlocks_succ, ha, bind_ok, hrest, bind_error]

/-- Blocks that all decode give a list of addresses. -/
theorem decodeBlocks_of_all_good {b : List Byte} : ∀ n i : Nat,
    (∀ j, i ≤ j → j < i + n → ∃ a, addrDec7 (slice b (7 * j) 7) = .ok a) → ∃ as, decodeBlocks b i n = .ok as := by
  intro n
  induction n with
  | zero => exact fun i _ => ⟨[], rfl⟩
  | succ n ih =>
    intro i hgood
    obtain ⟨a, ha⟩ := hgood i le_rfl (by omega)
    obtain ⟨rest, hrest⟩ := ih (i + 1) fun j hj hjn => hgood j (by omega) (by omega)
    exact ⟨a :: rest, by rw [decodeBlocks_succ, ha, bind_ok, hrest, bind_ok]⟩

/-! ## `parse_raw` (R171) -/

/-- After the scan and within the repeater bound, the blocks are decoded in increasing order. -/
theorem parseRaw_of_scan {rptMax k : Nat} {b : List Byte} (hk : scanAddresses b = .ok k) (hcount : k - 2 ≤ rptMax) :
    parseRaw rptMax b = (addrDec7 (slice b 0 7) >>= fun dest => addrDec7 (slice b 7 7) >>= fun src =>
      decodeBlocks b 2 (k - 2) >>= fun rpt => .ok ⟨dest, src, rpt, b.drop (7 * k)⟩) := by
  simp only [parseRaw, hk, if_neg (Nat.not_lt.2 hcount)]
  cases addrDec7 (slice b 0 7) with
  | error e => rfl
  | ok dest =>
    cases addrDec7 (slice b 7 7) with
    | error e => rfl
    | ok src => cases decodeBlocks b 2 (k - 2) <;> rfl

/-- The addresses of a raw frame, in the order of their blocks. -/
def RawParts.addresses (r : RawParts) : List Address := r.dest :: r.src :: r.rpt

/-- `parse_raw` gives the addresses of all blocks the scan found, and the octets after them. -/
theorem parseRaw_eq_ok_iff {rptMax : Nat} {b : List Byte} {r : RawParts} : parseRaw rptMax b = .ok r ↔
    ∃ k, scanAddresses b = .ok k ∧ k - 2 ≤ rptMax ∧ decodeBlocks b 0 k = .ok r.addresses ∧
      r.payload = b.drop (7 * k) := by
  have inside {k : Nat} (hk : scanAddresses b = .ok k) (hcount : k - 2 ≤ rptMax) : parseRaw rptMax b = .ok r ↔
      decodeBlocks b 0 k = .ok r.addresses ∧ r.payload = b.drop (7 * k) := by
    obtain ⟨n, rfl⟩ := Nat.exists_eq_add_of_le' (scanAddresses_ok hk).1
    obtain ⟨dest, src, rpt, payload⟩ := r
    simp only [parseRaw_of_scan hk hcount, decodeBlocks_succ, bind_eq_ok, Except.ok.injEq, RawParts.mk.injEq,
      RawParts.addresses, List.cons.injEq]
    constructor
    · rintro ⟨_, hdest, _, hsrc, _, hrpt, rfl, rfl, rfl, rfl⟩
      exact ⟨⟨_, hdest, _, ⟨_, hsrc, _, hrpt, rfl⟩, rfl, rfl⟩, rfl⟩
    · rintro ⟨⟨_, hdest, _, ⟨_, hsrc, _, hrpt, rfl⟩, rfl, h⟩, rfl⟩
      cases h
      exact ⟨_, hdest, _, hsrc, _, hrpt, rfl, rfl, rfl, rfl⟩
  constructor
  · intro h
    cases hk : scanAddresses b with
    | error e => simp [parseRaw, hk] at h
    | ok k =>
      by_cases hcount : rptMax < k - 2
      · simp [parseRaw, hk, hcount] at h
      · exact ⟨k, rfl, Nat.not_lt.1 hcount, (inside hk (Nat.not_lt.1 hcount)).1 h⟩
  · rintro ⟨k, hk, hcount, h⟩
    exact (inside hk hcount).2 h

theorem parseRaw_of_blocks_error {rptMax k : Nat} {b : List Byte} {e : Stop} (hk : scanAddresses b = .ok k)
    (hcount : k - 2 ≤ rptMax) (h : decodeBlocks b 0 k = .error e) : parseRaw rptMax b = .error e := by
  obtain ⟨n, rfl⟩ := Nat.exists_eq_add_of_le' (scanAddresses_ok hk).1
  simp only [decodeBlocks_succ, bind_eq_error, reduceCtorEq, and_false, exists_false, or_false] at h
  simp only [parseRaw_of_scan hk hcount, bind_eq_error, reduceCtorEq, and_false, exists_false, or_false]
  exact h

/-- What phase 1 reads has the last-address bits where R25 has them. -/
theorem extPositional_of_parseRaw {rptMax : Nat} {b : List Byte} {r : RawParts} (h : parseRaw rptMax b = .ok r)
    (ts : Nat) : extPositional (r.frame (.raw r.payload) ts) = true := by
  have hvalid := validFrame_of_parseRaw (p := ⟨b.length, rptMax, 0⟩) h le_rfl ts
  obtain ⟨-, -, -, -, hext, -⟩ := (validFrame_iff _ _).1 hvalid
  exact hext

/-- Settles O25: the scan, the repeater bound, then the blocks from the lowest on. -/
theorem parseRawReadsEveryBlockInOrder : Obligations.ParseRawReadsEveryBlockInOrder := by
  refine fun rptMax b => ⟨fun e he => ?_, fun k hk => ⟨fun hcount => ?_, fun hcount => ⟨?_, fun hgood => ?_⟩⟩⟩
  · simp only [parseRaw, he]
  · simp only [parseRaw, hk, if_pos hcount]
  · intro i e hi hbad hgood
    exact parseRaw_of_blocks_error hk hcount
      (decodeBlocks_of_first_bad hbad k 0 (Nat.zero_le i) (by omega) fun j _ => hgood j)
  · obtain ⟨h2, hlen, -⟩ := scanAddresses_ok hk
    obtain ⟨as, has⟩ := decodeBlocks_of_all_good k 0 fun j _ hj => hgood j (by omega)
    obtain ⟨hcard, hall⟩ := (decodeBlocks_eq_ok_iff b k 0 as).1 has
    obtain ⟨n, rfl⟩ := Nat.exists_eq_add_of_le' h2
    obtain ⟨dest, _, rfl⟩ := List.exists_cons_of_length_eq_add_one hcard
    obtain ⟨src, rpt, rfl⟩ := List.exists_cons_of_length_eq_add_one (Nat.succ.inj hcard)
    have hparse : parseRaw rptMax b = .ok ⟨dest, src, rpt, b.drop (7 * (n + 2))⟩ :=
      parseRaw_eq_ok_iff.2 ⟨n + 2, hk, hcount, has, rfl⟩
    refine ⟨_, hparse, rfl, ?_, Nat.succ.inj (Nat.succ.inj hcard), extPositional_of_parseRaw hparse, fun i a hi => ?_⟩
    · exact List.ne_nil_of_length_pos (by rw [List.length_drop]; omega)
    · simpa only [Nat.zero_add] using hall i a hi

end Sys2Proof.Machine
end

section
/-! Proofs about phase 2 of the frame parser (42_frame_parser.md R173 to R180): the body that promotion gives a payload,
whose control field is claimed, claimed by no format, or cut short. -/

namespace Sys2Proof.Machine

open Sys2Proof.Claims

/-! ## What a claimed field is promoted to -/

/-- The body of a payload that is a claimed field `f` followed by `t`: `UI` and the information formats take a PID and a
payload (R174, R178, R179); the supervisory formats take nothing, and stay raw when something follows (R175, R177). -/
def promotedAs (f : ControlField) (t : List Byte) : Except Stop (Body × Bool) :=
  match f, t with
  | .ui pf, pid :: payload => .ok (.ui pf pid payload, false)
  | .i8 ns nr pf, pid :: payload => .ok (.i8 ns nr pf pid payload, false)
  | .i16 ns nr pf, pid :: payload => .ok (.i16 ns nr pf pid payload, false)
  | .s8 st nr pf, [] => .ok (.s8 st nr pf, false)
  | .s16 st nr pf, [] => .ok (.s16 st nr pf, false)
  | .s8 .., _ | .s16 .., _ => .ok (.raw (ctlEnc f ++ t), true)
  | .ui _, [] | .i8 .., [] | .i16 .., [] => .error (.raise (.insufficientData .pid))

theorem promote_ctlEnc_append {f : ControlField} {m : Modulus} (h : Needs f m) (t : List Byte) :
    promote (ctlEnc f ++ t) m = promotedAs f t := by
  have hclaim := ctlDec_of_claimed (claimed_ctlEnc_append h t)
  cases f with
  | ui | i8 | i16 | s8 | s16 =>
    cases t with
    | nil | cons => simp only [promote, hclaim]; rfl

theorem needs_of_claimed {p : List Byte} {m : Modulus} {f : ControlField} {hl : Nat} (h : Claimed p m f hl) :
    Needs f m := by
  cases h with
  | ui => trivial
  | i8 | s8 | i16 | s16 => rfl

/-- A claimed payload is the encoding of its field, then the octets that promotion reads. -/
theorem promote_of_claimed {p : List Byte} {m : Modulus} {f : ControlField} {hl : Nat} (h : Claimed p m f hl) :
    ctlEnc f ++ p.drop hl = p ∧ promote p m = promotedAs f (p.drop hl) := by
  obtain ⟨henc, -⟩ := ctlEnc_of_claimed h
  have hp : ctlEnc f ++ p.drop hl = p := by rw [henc, List.take_append_drop]
  have hpromote := promote_ctlEnc_append (needs_of_claimed h) (p.drop hl)
  exact ⟨hp, by rwa [hp] at hpromote⟩

theorem promote_of_unclaimed {p : List Byte} {m : Modulus} (h : Unclaimed p m) : promote p m = .ok (.raw p, true) :=
  promote_of_unrecognised (ctlDec_of_unclaimed h)

/-- A payload that promotion gives a body begins with a claimed field, or with one that no format claims. -/
theorem claimed_or_unclaimed_of_promote {p : List Byte} {m : Modulus} {r : Body × Bool} (h : promote p m = .ok r) :
    (∃ f hl, Claimed p m f hl) ∨ Unclaimed p m := by
  cases p with
  | nil => cases h
  | cons c0 t =>
    obtain hclaim | hnone | ⟨rfl, rfl, hshort⟩ := ctlDec_cons_cases c0 t m
    · exact .inl hclaim
    · exact .inr hnone
    · simp [promote, ctlDec_m128_short hshort] at h

/-- Settles O27: each format's claim, with nothing or something after it. -/
theorem promotionReadsTheTypedFields : Obligations.PromotionReadsTheTypedFields := by
  refine ⟨fun pf t m => (promote_ctlEnc_append (f := .ui pf) trivial t).trans ?_,
    fun ns nr pf t => (promote_ctlEnc_append (f := .i8 ns nr pf) rfl t).trans ?_,
    fun ns nr pf t => (promote_ctlEnc_append (f := .i16 ns nr pf) rfl t).trans ?_,
    fun st nr pf t => (promote_ctlEnc_append (f := .s8 st nr pf) rfl t).trans ?_,
    fun st nr pf t => (promote_ctlEnc_append (f := .s16 st nr pf) rfl t).trans ?_⟩
  all_goals cases t <;> rfl

/-! ## What stays raw (R180) -/

theorem fallback_of_unclaimed {p : List Byte} {m : Modulus} (h : Unclaimed p m) : Fallback m p := by
  cases h with
  | uother hu h t m => exact .inl ⟨(classOf_eq_unnumbered_iff _).2 hu, h⟩
  | nomod h t => exact .inr (.inl ⟨mt (classOf_eq_unnumbered_iff _).1 h, rfl⟩)
  | highNibble hs h t => exact .inr (.inr (.inr ⟨(classOf_eq_supervisory_iff _).2 hs, rfl, .inl h⟩))

/-- Of the claimed fields, only a supervisory one followed by further octets stays raw. -/
theorem fallback_of_claimed_raw {p q : List Byte} {m : Modulus} {f : ControlField} {hl : Nat} {ucf : Bool}
    (h : Claimed p m f hl) (hraw : promotedAs f (p.drop hl) = .ok (.raw q, ucf)) :
    q = ctlEnc f ++ p.drop hl ∧ ucf = true ∧ Fallback m p := by
  cases h with
  | ui h t m => cases t <;> cases hraw
  | i8 h t => cases t <;> cases hraw
  | i16 h c1 t => cases t <;> cases hraw
  | s8 h t =>
    cases t <;> cases hraw
    exact ⟨rfl, rfl, .inr (.inr (.inl ⟨(classOf_eq_supervisory_iff _).2 h, rfl, nofun⟩))⟩
  | s16 h c1 t =>
    cases t <;> cases hraw
    exact ⟨rfl, rfl, .inr (.inr (.inr ⟨(classOf_eq_supervisory_iff _).2 ((and_0xF3_eq_iff _).1 h).1, rfl,
      .inr (Nat.le_add_left 2 _)⟩))⟩

/-- A raw result is the payload itself, with `ucf`, in a case of R180. -/
theorem fallback_of_promote_raw {p q : List Byte} {m : Modulus} {ucf : Bool} (h : promote p m = .ok (.raw q, ucf)) :
    q = p ∧ ucf = true ∧ Fallback m p := by
  obtain ⟨f, hl, hclaim⟩ | hnone := claimed_or_unclaimed_of_promote h
  · obtain ⟨hp, hpromote⟩ := promote_of_claimed hclaim
    obtain ⟨hq, hrest⟩ := fallback_of_claimed_raw hclaim (hpromote.symm.trans h)
    exact ⟨hq.trans hp, hrest⟩
  · cases (promote_of_unclaimed hnone).symm.trans h
    exact ⟨rfl, rfl, fallback_of_unclaimed hnone⟩

/-- Settles O26: the cases of R180 stay raw, and only they. -/
theorem unclaimedRegionsStayRaw : Obligations.UnclaimedRegionsStayRaw := by
  refine ⟨fun m p => ⟨fun h => ?_, promote_of_fallback⟩, fun m p q u h => ?_⟩
  · obtain ⟨-, -, hfallback⟩ := fallback_of_promote_raw h
    exact hfallback
  · obtain ⟨hq, hu, -⟩ := fallback_of_promote_raw h
    exact ⟨hq, hu⟩

/-! ## The octets of a promoted body (R185) -/

theorem bodyBytes_of_promotedAs {f : ControlField} {t : List Byte} {body : Body} {ucf : Bool}
    (h : promotedAs f t = .ok (body, ucf)) : bodyBytes body = ctlEnc f ++ t := by
  cases f <;> cases t <;> cases h <;> simp [bodyBytes]

/-- Promotion loses no octet, whichever format claims the payload. -/
theorem bodyBytes_of_promote {p : List Byte} {m : Modulus} {body : Body} {ucf : Bool}
    (h : promote p m = .ok (body, ucf)) : bodyBytes body = p := by
  obtain ⟨f, hl, hclaim⟩ | hnone := claimed_or_unclaimed_of_promote h
  · obtain ⟨hp, hpromote⟩ := promote_of_claimed hclaim
    exact (bodyBytes_of_promotedAs (hpromote.symm.trans h)).trans hp
  · cases (promote_of_unclaimed hnone).symm.trans h
    rfl

theorem promote_bodyBytes_of_promotedAs {f : ControlField} {t : List Byte} {m : Modulus} {body : Body} {ucf : Bool}
    (hf : Needs f m) (h : promotedAs f t = .ok (body, ucf)) : promote (bodyBytes body) m = .ok (body, ucf) := by
  rw [bodyBytes_of_promotedAs h, promote_ctlEnc_append hf, h]

/-- The octets of a body are promoted to it again, under the modulus its variant needs. -/
theorem promote_bodyBytes {body : Body} {m : Modulus} (h : Matches body m) :
    ∃ ucf, promote (bodyBytes body) m = .ok (body, ucf) := by
  cases body with
  | raw p => exact ⟨true, promote_of_fallback h⟩
  | ui pf pid payload =>
    exact ⟨false, promote_bodyBytes_of_promotedAs (f := .ui pf) (t := pid :: payload) trivial rfl⟩
  | i8 ns nr pf pid payload =>
    exact ⟨false, promote_bodyBytes_of_promotedAs (f := .i8 ns nr pf) (t := pid :: payload) h rfl⟩
  | i16 ns nr pf pid payload =>
    exact ⟨false, promote_bodyBytes_of_promotedAs (f := .i16 ns nr pf) (t := pid :: payload) h rfl⟩
  | s8 st nr pf => exact ⟨false, promote_bodyBytes_of_promotedAs (f := .s8 st nr pf) (t := []) h rfl⟩
  | s16 st nr pf => exact ⟨false, promote_bodyBytes_of_promotedAs (f := .s16 st nr pf) (t := []) h rfl⟩

end Sys2Proof.Machine
end

section
/-! Proofs that decoding and encoding whole frames are inverse to each other (42_frame_parser.md R185; 30_encoding.md
R97; 43_frame_assembler.md R214). -/

namespace Sys2Proof.Machine

open Sys2Proof.Claims

/-! ## Both phases, and the octets of a frame -/

theorem decodeFrame_eq (rptMax : Nat) (b : List Byte) (m : Modulus) : decodeFrame rptMax b m =
    (parseRaw rptMax b >>= fun r => promote r.payload m >>= fun x => .ok (r, x)) := by
  rw [decodeFrame]
  cases parseRaw rptMax b with
  | error e => rfl
  | ok r => cases hp : promote r.payload m <;> simp only [bind_ok, bind_error, hp]

theorem decodeFrame_eq_ok_iff {rptMax : Nat} {b : List Byte} {m : Modulus} {r : RawParts} {body : Body} {ucf : Bool} :
    decodeFrame rptMax b m = .ok (r, body, ucf) ↔
      parseRaw rptMax b = .ok r ∧ promote r.payload m = .ok (body, ucf) := by
  simp only [decodeFrame_eq, bind_eq_ok, Except.ok.injEq, Prod.mk.injEq]
  constructor
  · rintro ⟨_, hparse, _, hpromote, rfl, rfl⟩
    exact ⟨hparse, hpromote⟩
  · rintro ⟨hparse, hpromote⟩
    exact ⟨r, hparse, _, hpromote, rfl, rfl⟩

/-- The addresses of a frame, in the order of their blocks. -/
def Frame.addresses (f : Frame) : List Address := f.dest :: f.src :: f.rpt

/-- A frame's octets are its address blocks, then its body (R214). -/
theorem frameBytes_eq (f : Frame) : frameBytes f = f.addresses.flatMap addrEnc7 ++ bodyBytes f.body := by
  simp only [frameBytes, Frame.addresses, List.flatMap_cons, List.append_assoc]

/-! ## From octets and back (R185 (a)) -/

theorem slice_append (b : List Byte) (off n k : Nat) : slice b off (n + k) = slice b off n ++ slice b (off + n) k := by
  simp only [slice, List.take_add, List.drop_drop]

/-- A block whose callsign octets have bit 0 clear is what its address encodes to (R127 (b)). -/
theorem addrEnc7_of_clear_block {b : List Byte} {k i : Nat} {a : Address} (hclear : callBitsClear b k = true)
    (hi : i < k) (hlen : 7 * k ≤ b.length) (h : addrDec7 (slice b (7 * i) 7) = .ok a) :
    addrEnc7 a = slice b (7 * i) 7 := by
  have hseven : (slice b (7 * i) 7).length = 7 := by
    simp only [slice, List.length_take, List.length_drop]; omega
  have hbits : ∀ o ∈ slice b (7 * i) 6, o.getLsbD 0 = false := by
    have hblock := List.all_eq_true.1 hclear i (List.mem_range.2 hi)
    exact fun o ho => by simpa using List.all_eq_true.1 hblock o ho
  obtain ⟨-, hroundtrip, -⟩ := addressCodecRoundTrips
  obtain ⟨-, hiff⟩ := hroundtrip _ a hseven h
  refine hiff.2 fun o ho => hbits o ?_
  rwa [slice, List.take_take] at ho

/-- Blocks that are each what their address encodes to are what the addresses encode to. -/
theorem flatMap_addrEnc7_of_decodeBlocks {b : List Byte} {k : Nat}
    (henc : ∀ i a, i < k → addrDec7 (slice b (7 * i) 7) = .ok a → addrEnc7 a = slice b (7 * i) 7) :
    ∀ (n i : Nat) (as : List Address), i + n ≤ k → decodeBlocks b i n = .ok as →
      as.flatMap addrEnc7 = slice b (7 * i) (7 * n) := by
  intro n
  induction n with
  | zero => rintro i as - ⟨⟩; simp [slice]
  | succ n ih =>
    intro i as hik h
    simp only [decodeBlocks_succ, bind_eq_ok, Except.ok.injEq] at h
    obtain ⟨a, ha, rest, hrest, rfl⟩ := h
    rw [List.flatMap_cons, henc i a (by omega) ha, ih (i + 1) rest (by omega) hrest,
      show 7 * (n + 1) = 7 + 7 * n by omega, slice_append, Nat.mul_succ]

theorem wellFormedOctets_iff {rptMax : Nat} {b : List Byte} {m : Modulus} : wellFormedOctets rptMax b m = true ↔
    ∃ k r body ucf, scanAddresses b = .ok k ∧ decodeFrame rptMax b m = .ok (r, body, ucf) ∧
      callBitsClear b k = true := by
  cases hk : scanAddresses b with
  | error e => simp [wellFormedOctets, hk]
  | ok k =>
    cases hd : decodeFrame rptMax b m with
    | error e => simp [wellFormedOctets, hk, hd, Except.isOk, Except.toBool]
    | ok x =>
      obtain ⟨r, body, ucf⟩ := x
      simp [wellFormedOctets, hk, hd, Except.isOk, Except.toBool]

/-- Settles O30: the blocks and the payload are each encoded to the octets they were read from. -/
theorem wellFormedOctetsRoundTrip : Obligations.WellFormedOctetsRoundTrip := by
  intro rptMax b m hwf
  obtain ⟨k, r, body, ucf, hk, hdecode, hclear⟩ := wellFormedOctets_iff.1 hwf
  refine ⟨r, body, ucf, hdecode, fun ts => ?_⟩
  obtain ⟨hparse, hpromote⟩ := decodeFrame_eq_ok_iff.1 hdecode
  obtain ⟨k', hk', -, hblocks, hpayload⟩ := parseRaw_eq_ok_iff.1 hparse
  obtain rfl : k = k' := Except.ok.inj (hk.symm.trans hk')
  obtain ⟨-, hlen, -⟩ := scanAddresses_ok hk
  have haddresses : r.addresses.flatMap addrEnc7 = b.take (7 * k) :=
    flatMap_addrEnc7_of_decodeBlocks (fun i a hi ha => addrEnc7_of_clear_block hclear hi (by omega) ha) k 0 _
      (by omega) hblocks
  calc frameBytes (r.frame body ts) = r.addresses.flatMap addrEnc7 ++ bodyBytes body := frameBytes_eq _
    _ = b.take (7 * k) ++ b.drop (7 * k) := by rw [haddresses, bodyBytes_of_promote hpromote, hpayload]
    _ = b := List.take_append_drop _ _

/-! ## From a valid frame and back (R185 (b)) -/

/-- The last-address bit of each address is 1 exactly on the last one (R25). -/
theorem rptExt_iff : ∀ as : List Address,
    rptExt as = true ↔ ∀ i a, as[i]? = some a → a.ext = decide (i + 1 = as.length) := by
  intro as
  induction as with
  | nil => simp [rptExt]
  | cons x as ih =>
    have hempty : as.isEmpty = decide (0 + 1 = (x :: as).length) := by cases as <;> simp
    rw [rptExt_cons, Bool.and_eq_true, beq_iff_eq, ih, hempty]
    constructor
    · rintro ⟨hx, has⟩ i a hi
      cases i with
      | zero => cases hi; exact hx
      | succ i => simpa using has i a hi
    · exact fun h => ⟨h 0 x rfl, fun i a hi => by simpa using h (i + 1) a hi⟩

/-- The positional bits of a frame are those of its addresses, the two before the repeaters included. -/
theorem rptExt_addresses {f : Frame} (h : extPositional f = true) : rptExt f.addresses = true := by
  simp only [extPositional, Bool.and_eq_true] at h
  obtain ⟨⟨hdest, hsrc⟩, hrpt⟩ := h
  simp only [Frame.addresses, rptExt_cons, hsrc, hrpt, List.isEmpty_cons, Bool.and_true]
  simpa using hdest

section
variable {as : List Address} (hvalid : ∀ a ∈ as, a.valid = true) (p : List Byte)
include hvalid

theorem length_flatMap_addrEnc7 : (as.flatMap addrEnc7).length = 7 * as.length := by
  induction as with
  | nil => rfl
  | cons a as ih =>
    obtain ⟨ha, has⟩ := List.forall_mem_cons.1 hvalid
    obtain ⟨-, hle, -⟩ := (validCall_iff _).1 ha
    rw [List.flatMap_cons, List.length_append, addrEnc7_length hle, ih has, List.length_cons]
    omega

/-- Block `i` of encoded addresses is the encoding of address `i`. -/
theorem slice_flatMap_addrEnc7 {i : Nat} {a : Address} (hi : as[i]? = some a) :
    slice (as.flatMap addrEnc7 ++ p) (7 * i) 7 = addrEnc7 a := by
  induction as generalizing i with
  | nil => cases hi
  | cons x as ih =>
    obtain ⟨hx, has⟩ := List.forall_mem_cons.1 hvalid
    obtain ⟨-, hle, -⟩ := (validCall_iff _).1 hx
    have hlen := addrEnc7_length hle
    rw [List.flatMap_cons, List.append_assoc]
    cases i with
    | zero =>
      cases hi
      exact List.take_left' hlen
    | succ i =>
      rw [← ih has hi, slice, slice, Nat.mul_succ, Nat.add_comm, ← List.drop_drop, List.drop_left' hlen]

theorem blockExt_flatMap_addrEnc7 {i : Nat} {a : Address} (hi : as[i]? = some a) :
    blockExt (as.flatMap addrEnc7 ++ p) i = a.ext := by
  have ha := hvalid a (List.mem_of_getElem? hi)
  have hdec : addrDec7 (slice (as.flatMap addrEnc7 ++ p) (7 * i) 7) = .ok a := by
    rw [slice_flatMap_addrEnc7 hvalid p hi, addrDec7_addrEnc7 ha]
  obtain ⟨-, hext⟩ := addrDec7_slice_ok hdec
  exact hext.symm

/-- Encoded addresses with positional bits are scanned to their number. -/
theorem scanAddresses_flatMap_addrEnc7 (htwo : 2 ≤ as.length) (hext : rptExt as = true) (hp : p ≠ []) :
    scanAddresses (as.flatMap addrEnc7 ++ p) = .ok as.length := by
  have hpos := List.length_pos_of_ne_nil hp
  refine (scanAddresses_eq_ok_iff _ _).2 ⟨htwo, ?_, fun i hi => ?_⟩
  · rw [List.length_append, length_flatMap_addrEnc7 hvalid]; omega
  · have hget := List.getElem?_eq_getElem hi
    rw [blockExt_flatMap_addrEnc7 hvalid p hget, (rptExt_iff as).1 hext i _ hget]

theorem decodeBlocks_flatMap_addrEnc7 : decodeBlocks (as.flatMap addrEnc7 ++ p) 0 as.length = .ok as := by
  refine (decodeBlocks_eq_ok_iff _ _ _ _).2 ⟨rfl, fun i a hi => ?_⟩
  rw [Nat.zero_add, slice_flatMap_addrEnc7 hvalid p hi]
  exact addrDec7_addrEnc7 (hvalid a (List.mem_of_getElem? hi))

end

theorem bodyBytes_ne_nil {b : Body} (h : bodyValid b = true) : bodyBytes b ≠ [] := by
  cases b with
  | raw p => simpa [bodyValid, bodyBytes] using h
  | ui | i8 | i16 | s8 | s16 => simp [bodyBytes, ctlEnc]

/-- Phase 1 reads a valid frame's addresses and body back from its octets. -/
theorem parseRaw_frameBytes {p : Params} {f : Frame} (h : validFrame p f = true) :
    parseRaw p.rptMax (frameBytes f) = .ok ⟨f.dest, f.src, f.rpt, bodyBytes f.body⟩ := by
  obtain ⟨hdest, hsrc, hrpt, hcount, hext, hbody, -⟩ := (validFrame_iff p f).1 h
  have hvalid : ∀ a ∈ f.addresses, a.valid = true :=
    List.forall_mem_cons.2 ⟨hdest, List.forall_mem_cons.2 ⟨hsrc, List.all_eq_true.1 hrpt⟩⟩
  rw [frameBytes_eq]
  refine parseRaw_eq_ok_iff.2 ⟨f.addresses.length, ?_, hcount, decodeBlocks_flatMap_addrEnc7 hvalid _, ?_⟩
  · exact scanAddresses_flatMap_addrEnc7 hvalid _ (Nat.le_add_left 2 _) (rptExt_addresses hext) (bodyBytes_ne_nil hbody)
  · exact (List.drop_left' (length_flatMap_addrEnc7 hvalid)).symm

/-- Settles O31: phase 1 reads the addresses and the body's octets back, and phase 2 the body. -/
theorem validFramesRoundTrip : Obligations.ValidFramesRoundTrip := by
  intro p f m hvalid hm
  obtain ⟨ucf, hpromote⟩ := promote_bodyBytes hm
  exact ⟨_, f.body, ucf, decodeFrame_eq_ok_iff.2 ⟨parseRaw_frameBytes hvalid, hpromote⟩,
    fun ts => by simp [semEq, RawParts.frame]⟩

end Sys2Proof.Machine
end

section
/-! Proofs about the frame parser's operations (42_frame_parser.md R172, R181 to R184; 60_exceptions.md R265, R267). -/

namespace Sys2Proof.Machine

open Sys2Proof.Claims

/-! ## Operands (R265, R176) -/

theorem checkSlot_of_lt {s : State} {i : Nat} (h : i < s.slots.length) : checkSlot s i = .ok () :=
  (checkSlot_eq_ok s i ()).2 h

theorem checkSlot_of_le {s : State} {i : Nat} (h : s.slots.length ≤ i) : checkSlot s i = .error (.refuse .badSlot) :=
  (refuseIf_eq_error _ _ _).2 ⟨h, rfl⟩

theorem fullSlot_of_empty {s : State} {i : Nat} (h : s.slots[i]? = some none) :
    fullSlot s i = .error (.refuse .emptySlot) := by
  obtain ⟨hi, hempty⟩ := List.getElem?_eq_some_iff.1 h
  simp [fullSlot, State.nslot, State.slot, hi, hempty]

/-- A frame delivered to a slot, with `STATUS` written out (R29). -/
theorem deliver_eq (s : State) (d : Nat) (f : Frame) (ucf : Bool) : s.deliver d f ucf = { s with
    slots := s.slots.set d (some f), status := frameStatus f.body ucf, resp := .ok .unit } := rfl

theorem frameStatus_raw (p : List Byte) : frameStatus (.raw p) false = 0x10 := by
  simp [frameStatus, bodyVariant, variantCode]

/-! ## `FPARSE` (R172) -/

theorem execFparse_of_slot {d : Nat} {s : State} (hd : d < s.slots.length) :
    execFparse d s = conclude s (parseRaw s.params.rptMax s.input >>= fun r =>
      .ok (s.timeTaken.deliver d (r.frame (.raw r.payload) s.timeNow) false)) := by
  rw [execFparse, checkSlot_of_lt hd, bind_ok]

/-- Settles O32: the slot check, then `parse_raw`. -/
theorem fparseWritesARawFrame : Obligations.FparseWritesARawFrame := by
  refine fun d s => ⟨rfl, fun hd => ?_, fun e hd he => ?_, fun r hd hr => ?_⟩ <;> show execFparse d s = _
  · rw [execFparse, checkSlot_of_le hd, bind_error, conclude_stopped]
  · rw [execFparse_of_slot hd, State.input, he, bind_error, conclude_stopped]
  · rw [execFparse_of_slot hd, State.input, hr, bind_ok, conclude_ok, deliver_eq, RawParts.frame, frameStatus_raw]
    rfl

/-! ## `FDECB` (R181) -/

theorem execFdecb_of_operands {d : Nat} {sel : Option (BitVec 2)} {m : Modulus} {s : State}
    (hd : d < s.slots.length) (hsel : Selects sel m) :
    execFdecb d sel s = conclude s (parseRaw s.params.rptMax s.input >>= fun r => promote r.payload m >>= fun x =>
      .ok (s.timeTaken.deliver d (r.frame x.1 s.timeNow) x.2)) := by
  rw [execFdecb, checkSlot_of_lt hd, bind_ok, asModulus_of_selects hsel, bind_ok, decodeFrame_eq]
  simp only [bind_assoc, bind_ok]

/-- Settles O33: the operands' checks, then both phases in turn. -/
theorem fdecbParsesThenPromotes : Obligations.FdecbParsesThenPromotes := by
  refine fun d sel s => ⟨rfl, fun hd => ?_, ?_, fun m hd hsel => ⟨fun e he => ?_, fun r e hr he => ?_,
    fun r b ucf hr hp => ?_⟩⟩
  · show execFdecb d sel s = _
    rw [execFdecb, checkSlot_of_le hd, bind_error, conclude_stopped]
  · rintro hd rfl
    show execFdecb d _ s = _
    rw [execFdecb, checkSlot_of_lt hd, bind_ok]
    exact conclude_stopped s _
  all_goals
    show execFdecb d sel s = _
    rw [execFdecb_of_operands hd hsel, State.input]
  · rw [he, bind_error, conclude_stopped]
  · rw [hr, bind_ok, he, bind_error, conclude_stopped]
  · rw [hr, bind_ok, hp, bind_ok, conclude_ok, deliver_eq]
    rfl

/-! ## `FDECF` (R182) -/

theorem execFdecf_of_slots {d src : Nat} {s : State} (hd : d < s.slots.length) (hsrc : src < s.slots.length)
    (sel : Option (BitVec 2)) : execFdecf d src sel s =
      conclude s (asModulus sel >>= fun m => fullSlot s src >>= fun f => promoteBody f.body m >>= fun x =>
        .ok (s.deliver d { f with body := x.1 } x.2)) := by
  rw [execFdecf, checkSlot_of_lt hd, bind_ok, checkSlot_of_lt hsrc, bind_ok]

theorem execFdecf_of_frame {d src : Nat} {sel : Option (BitVec 2)} {m : Modulus} {s : State} {f : Frame}
    (hd : d < s.slots.length) (hsel : Selects sel m) (hf : s.slots[src]? = some (some f)) :
    execFdecf d src sel s = conclude s (promoteBody f.body m >>= fun x =>
      .ok (s.deliver d { f with body := x.1 } x.2)) := by
  obtain ⟨hsrc, -⟩ := List.getElem?_eq_some_iff.1 hf
  rw [execFdecf_of_slots hd hsrc, asModulus_of_selects hsel, bind_ok, (fullSlot_eq_ok s src f).2 hf, bind_ok]

/-- A typed frame is its own promotion (R182). -/
theorem promoteBody_of_typed {b : Body} (h : ∀ p, b ≠ .raw p) (m : Modulus) : promoteBody b m = .ok (b, false) := by
  cases b with
  | raw p => exact absurd rfl (h p)
  | ui | i8 | i16 | s8 | s16 => rfl

/-- Settles O34: the operands' checks, then the promotion of the source frame's body. -/
theorem fdecfPromotesTheFrameOfASlot : Obligations.FdecfPromotesTheFrameOfASlot := by
  refine fun d src sel s => ⟨rfl, fun hbad => ?_, ?_, fun m hd hsel hempty => ?_, fun m f hd hsel hf => ?_⟩
  · show execFdecf d src sel s = _
    by_cases hd : s.slots.length ≤ d
    · rw [execFdecf, checkSlot_of_le hd, bind_error, conclude_stopped]
    · rw [execFdecf, checkSlot_of_lt (Nat.not_le.1 hd), bind_ok, checkSlot_of_le (hbad.resolve_left hd), bind_error,
        conclude_stopped]
  · rintro hd hsrc rfl
    show execFdecf d src _ s = _
    rw [execFdecf_of_slots hd hsrc]
    exact conclude_stopped s _
  · obtain ⟨hsrc, -⟩ := List.getElem?_eq_some_iff.1 hempty
    show execFdecf d src sel s = _
    rw [execFdecf_of_slots hd hsrc, asModulus_of_selects hsel, bind_ok, fullSlot_of_empty hempty, bind_error,
      conclude_stopped]
  · refine ⟨fun p e hp he => ?_, fun p b ucf hp hb => ?_, fun htyped => ?_⟩
    all_goals
      show execFdecf d src sel s = _
      rw [execFdecf_of_frame hd hsel hf]
    · rw [hp, promoteBody, he, bind_error, conclude_stopped]
    · rw [hp, promoteBody, hb, bind_ok, conclude_ok, deliver_eq]
    · rw [promoteBody_of_typed htyped, bind_ok, conclude_ok, deliver_eq]

/-! ## Truncated inputs (R184) -/

/-- Where the scan fails, `FDECB` raises its `InsufficientData`, whatever the callsigns. -/
theorem execFdecb_of_scan_error {d : Nat} {sel : Option (BitVec 2)} {m : Modulus} {s : State} {e : Stop}
    (hd : d < s.slots.length) (hsel : Selects sel m) (h : scanAddresses s.input = .error e) :
    ∃ w, execFdecb d sel s = .next { s with status := 0x01, resp := .fault (.insufficientData w) } := by
  obtain ⟨w, rfl⟩ := scanAddresses_error h
  have hparse : parseRaw s.params.rptMax s.input = .error (.raise (.insufficientData w)) := by simp only [parseRaw, h]
  exact ⟨w, by rw [execFdecb_of_operands hd hsel, hparse, bind_error, conclude_stopped]; rfl⟩

/-- What an `FDECB` that ends `ok` has read. -/
theorem execFdecb_ok {d : Nat} {sel : Option (BitVec 2)} {s t : State} {f : Frame} (h : execFdecb d sel s = .next t)
    (hok : t.resp = .ok .unit) (hf : t.slots[d]? = some (some f)) :
    d < s.slots.length ∧ scanAddresses s.input = .ok (f.rpt.length + 2) := by
  obtain hr | ⟨e, -, rfl⟩ := (conclude_eq_next s _ t).1 h
  · simp only [bind_eq_ok, checkSlot_eq_ok, Except.ok.injEq] at hr
    obtain ⟨-, hd, m, -, ⟨r, body, ucf⟩, hdecode, rfl⟩ := hr
    obtain ⟨hparse, -⟩ := decodeFrame_eq_ok_iff.1 hdecode
    obtain ⟨k, hk, -, hblocks, -⟩ := parseRaw_eq_ok_iff.1 hparse
    obtain ⟨hcard, -⟩ := (decodeBlocks_eq_ok_iff _ _ _ _).1 hblocks
    have hframe : r.frame body s.timeNow = f := by simpa [show d < s.slots.length from hd] using hf
    refine ⟨hd, hk.trans (congrArg Except.ok ?_)⟩
    rw [← hcard, ← hframe]
    rfl
  · cases e <;> cases hok

/-- An input cut before its control octet fails in the scan: no block before the last one is marked last. -/
theorem scanAddresses_take_error {b : List Byte} {k n : Nat} (hk : scanAddresses b = .ok k) (hn : n < 7 * k + 1) :
    ∃ e, scanAddresses (b.take n) = .error e := by
  cases hcut : scanAddresses (b.take n) with
  | error e => exact ⟨e, rfl⟩
  | ok k' =>
    exfalso
    obtain ⟨-, -, hmarks⟩ := scanAddresses_ok hk
    obtain ⟨h2, hlen, hmarks'⟩ := scanAddresses_ok hcut
    rw [List.length_take] at hlen
    have hsame : blockExt (b.take n) (k' - 1) = blockExt b (k' - 1) := by
      have hi : 7 * (k' - 1) + 6 < n := by omega
      simp only [blockExt, octet, List.getD_eq_getElem?_getD, List.getElem?_take_of_lt hi]
    rw [hmarks' (k' - 1) (by omega), hmarks (k' - 1) (by omega), decide_eq_true (by omega),
      decide_eq_false (by omega)] at hsame
    cases hsame

/-- A shorter `ILEN` cuts the input. -/
theorem input_setIlen {s : State} {n : Nat} (h : n ≤ s.ilen) : { s with ilen := n }.input = s.input.take n := by
  simp only [State.input, State.memRead, ← List.map_take, ← List.range_eq_range', List.take_range, Nat.min_eq_left h]
  rfl

/-- Settles O29: a truncated input fails in the scan, and there every failure is `InsufficientData`. -/
theorem truncationIsAlwaysInsufficientData : Obligations.TruncationIsAlwaysInsufficientData := by
  refine ⟨fun d sel sel' m' s t f n hexec hok hf hsel hn => ?_, fun d sel m s e hd hsel he =>
    execFdecb_of_scan_error hd hsel he⟩
  obtain ⟨hd, hk⟩ := execFdecb_ok hexec hok hf
  obtain ⟨-, hlen, -⟩ := scanAddresses_ok hk
  rw [input_length] at hlen
  obtain ⟨e, he⟩ := scanAddresses_take_error hk hn
  rw [← input_setIlen (by omega)] at he
  exact execFdecb_of_scan_error hd hsel he

end Sys2Proof.Machine
end

section
/-! Proofs about the octets of a frame (43_frame_assembler.md R213, R214, R220, R221): the control octets by their
tables (30_encoding.md R88, R90, R93), how many octets a frame has, and that promotion keeps them. -/

namespace Sys2Proof.Machine

open Sys2Proof.Claims

/-- Settles O28: every region promotion claims is its field's encoding and the octets after it. -/
theorem promotionKeepsEveryOctet : Obligations.PromotionKeepsEveryOctet :=
  fun _ _ _ _ h => bodyBytes_of_promote h

/-! ## Control octets, bit by bit (R88, R90, R93) -/

theorem ctlEnc_ui_bits (pf : Bool) : ctlEnc (.ui pf) = [0b000#3 ++ BitVec.ofBool pf ++ 0b0011#4] := by
  revert pf; decide

theorem ctlEnc_i8_bits (ns nr : BitVec 3) (pf : Bool) :
    ctlEnc (.i8 ns nr pf) = [nr ++ BitVec.ofBool pf ++ ns ++ 0b0#1] := by
  revert ns nr pf; decide

theorem ctlEnc_i16_bits (ns nr : BitVec 7) (pf : Bool) :
    ctlEnc (.i16 ns nr pf) = [ns ++ 0b0#1, nr ++ BitVec.ofBool pf] := by
  have hfirst : ns.setWidth 8 <<< 1 = (ns ++ 0b0#1 : Byte) := by revert ns; decide
  rw [ctlEnc, hfirst, secondOctet_append]

/-- The low four bits hold the subtype above the class bits `01`. -/
theorem ctlEnc_s8_bits (st : Supervisory) (nr : BitVec 3) (pf : Bool) :
    ctlEnc (.s8 st nr pf) = [nr ++ BitVec.ofBool pf ++ (stCode st ++ 0b01#2)] := by
  cases st <;> (revert nr pf; decide)

theorem ctlEnc_s16_bits (st : Supervisory) (nr : BitVec 7) (pf : Bool) :
    ctlEnc (.s16 st nr pf) = [stPattern st, nr ++ BitVec.ofBool pf] := by
  rw [ctlEnc, stPattern, secondOctet_append]

/-- Settles O41: the addresses are encoded in order, and the body's control octets are those of its format. -/
theorem frameOctetsAreTheTablesOfTheSpec : Obligations.FrameOctetsAreTheTablesOfTheSpec := by
  intro f
  rw [frameBytes, List.flatMap_def]
  congr 1
  cases f.body with
  | raw payload => rfl
  | ui pf pid payload => rw [bodyBytes, ctlEnc_ui_bits]; rfl
  | i8 ns nr pf pid payload => rw [bodyBytes, ctlEnc_i8_bits]; rfl
  | i16 ns nr pf pid payload => rw [bodyBytes, ctlEnc_i16_bits]; rfl
  | s8 st nr pf => rw [bodyBytes, ctlEnc_s8_bits]; cases st <;> rfl
  | s16 st nr pf => rw [bodyBytes, ctlEnc_s16_bits]; cases st <;> rfl

/-! ## How many octets a frame has (R220) -/

theorem valid_addresses {p : Params} {f : Frame} (h : validFrame p f = true) : ∀ a ∈ f.addresses, a.valid = true := by
  obtain ⟨hdest, hsrc, hrpt, -⟩ := (validFrame_iff p f).1 h
  exact List.forall_mem_cons.2 ⟨hdest, List.forall_mem_cons.2 ⟨hsrc, List.all_eq_true.1 hrpt⟩⟩

/-- Seven octets an address, two addresses and the repeaters. -/
theorem frameBytes_length {p : Params} {f : Frame} (h : validFrame p f = true) :
    (frameBytes f).length = 14 + 7 * f.rpt.length + (bodyBytes f.body).length := by
  have haddresses : f.addresses.length = 2 + f.rpt.length := Nat.add_comm f.rpt.length 2
  rw [frameBytes_eq, List.length_append, length_flatMap_addrEnc7 (valid_addresses h), haddresses]
  omega

theorem frameBytes_length_le {p : Params} {f : Frame} (h : validFrame p f = true) :
    (frameBytes f).length ≤ p.lenMax := by
  obtain ⟨-, -, -, -, -, -, hfits⟩ := (validFrame_iff p f).1 h
  rwa [frameBytes_length h]

theorem semEq_iff (f g : Frame) :
    semEq f g = true ↔ f.dest = g.dest ∧ f.src = g.src ∧ f.rpt = g.rpt ∧ f.body = g.body := by
  simp only [semEq, Bool.and_eq_true, decide_eq_true_eq, and_assoc]

theorem frameBytes_eq_of_semEq {f g : Frame} (h : semEq f g = true) : frameBytes f = frameBytes g := by
  obtain ⟨hdest, hsrc, hrpt, hbody⟩ := (semEq_iff f g).1 h
  simp only [frameBytes, hdest, hsrc, hrpt, hbody]

/-- Settles O42: the count of a valid frame's octets, and that the octets read no metadata. -/
theorem encodingFitsAndIgnoresMetadata : Obligations.EncodingFitsAndIgnoresMetadata :=
  ⟨fun _ _ h => ⟨frameBytes_length h, frameBytes_length_le h⟩, fun _ _ h => frameBytes_eq_of_semEq h⟩

end Sys2Proof.Machine
end

section
/-! Proofs about the twelve constructors (43_frame_assembler.md R200 to R212; 60_exceptions.md R265, R267): what
`mk_common` builds and refuses, and that each constructor is `mk_common` around one check and one body. -/

namespace Sys2Proof.Machine

open Sys2Proof.Claims

/-! ## The frame of R200 -/

theorem asAddresses_of_good : ∀ {as : List AddrOperand}, (∀ x ∈ as, Good x) →
    asAddresses as = .ok (as.map theAddress)
  | [], _ => rfl
  | a :: as, h => by
    obtain ⟨ha, has⟩ := List.forall_mem_cons.1 h
    rw [asAddresses_cons, asAddress_of_good ha, bind_ok, asAddresses_of_good has, bind_ok, List.map_cons]

/-- The last-address bit is 1 on the last repeater alone, by its position. -/
theorem placeRptExt_theAddress (as : List AddrOperand) : placeRptExt (as.map theAddress) =
    as.mapIdx fun i x => ⟨x.call, BitVec.ofNat 4 x.ssid, x.ch, x.rsv, decide (i + 1 = as.length)⟩ := by
  induction as with
  | nil => rfl
  | cons a as ih =>
    have hlast : (as.map theAddress).isEmpty = decide (0 + 1 = (a :: as).length) := by cases as <;> simp
    rw [List.map_cons, placeRptExt_cons, ih, hlast, List.mapIdx_cons]
    simp only [List.length_cons, Nat.add_right_cancel_iff]
    rfl

theorem assemble_theAddress (s : State) (a : MkArgs) (b : Body) :
    assemble s a (theAddress a.dest) (theAddress a.src) (a.rpt.map theAddress) b = built s a b := by
  simp only [assemble, built, placeRptExt_theAddress, List.isEmpty_map]
  rfl

/-- The sample of a defaulted `ts`, and the frame delivered with `STATUS` written out. -/
theorem deliver_sampled (s : State) (a : MkArgs) (b : Body) : (sampled s a).deliver a.d (built s a b) false = { s with
    slots := s.slots.set a.d (some (built s a b))
    status := frameStatus b false
    resp := .ok .unit
    timeDraws := s.timeDraws + (if a.ts.isNone then 1 else 0) } := by
  rw [deliver_eq, ← sampled_timeDraws]
  cases hts : a.ts <;> simp [sampled, hts, State.timeTaken, built]

/-! ## `mk_common`, check by check (R200, R267) -/

section
variable {s : State} {a : MkArgs}

theorem make_of_bad_slot (h : s.slots.length ≤ a.d) (body : Except Stop Body) :
    make a body s = .next (stopped s (.refuse .badSlot)) := by
  rw [make, checkSlot_of_le h, bind_error, conclude_stopped]

/-- An operand wider than `TS_W` bits is refused (log entry 13). -/
theorem checkTimeOpt_of_wide {v : Option Nat} (h : ∃ x ∈ v, 2 ^ s.params.tsW ≤ x) :
    checkTimeOpt s v = .error (.refuse .fieldRange) := by
  obtain ⟨x, rfl, hx⟩ := h
  exact if_pos hx

theorem checkTimeOpt_cases (s : State) (v : Option Nat) :
    checkTimeOpt s v = .ok () ∨ checkTimeOpt s v = .error (.refuse .fieldRange) := by
  by_cases h : ∃ x ∈ v, 2 ^ s.params.tsW ≤ x
  · exact .inr (checkTimeOpt_of_wide h)
  · push Not at h
    exact .inl ((checkTimeOpt_eq_ok s v ()).2 h)

section
variable (hd : a.d < s.slots.length) (hdest : Good a.dest) (hsrc : Good a.src) (hrpt : ∀ x ∈ a.rpt, Good x)
include hd hdest hsrc hrpt

/-- With a slot and Addresses for operands, the checks that remain, in their order. -/
theorem make_of_addresses (body : Except Stop Body) : make a body s = conclude s (do
      refuseIf (s.params.rptMax < a.rpt.length) .tooManyRepeaters
      checkTimeOpt s a.ts
      checkTimeOpt s a.dl
      let b ← body
      refuseIf (s.params.lenMax < 14 + 7 * a.rpt.length + (bodyBytes b).length) .tooLong
      .ok ((sampled s a).deliver a.d (built s a b) false)) := by
  rw [make, checkSlot_of_lt hd, bind_ok, asAddress_of_good hdest, bind_ok, asAddress_of_good hsrc, bind_ok,
    asAddresses_of_good hrpt, bind_ok]
  simp only [assemble_theAddress]

theorem make_of_tooManyRepeaters (h : s.params.rptMax < a.rpt.length) (body : Except Stop Body) :
    make a body s = .next (stopped s (.refuse .tooManyRepeaters)) := by
  rw [make_of_addresses hd hdest hsrc hrpt, (refuseIf_eq_error _ _ _).2 ⟨h, rfl⟩, bind_error, conclude_stopped]

theorem make_of_wide_metadata (hcount : a.rpt.length ≤ s.params.rptMax)
    (h : (∃ v ∈ a.ts, 2 ^ s.params.tsW ≤ v) ∨ (∃ v ∈ a.dl, 2 ^ s.params.tsW ≤ v)) (body : Except Stop Body) :
    make a body s = .next (stopped s (.refuse .fieldRange)) := by
  rw [make_of_addresses hd hdest hsrc hrpt, (refuseIf_eq_ok _ _ ()).2 (Nat.not_lt.2 hcount), bind_ok]
  obtain hts | hts := checkTimeOpt_cases s a.ts
  · have hdl : checkTimeOpt s a.dl = .error (.refuse .fieldRange) := by
      refine checkTimeOpt_of_wide (h.resolve_left fun hwide => ?_)
      cases hts.symm.trans (checkTimeOpt_of_wide hwide)
    rw [hts, bind_ok, hdl, bind_error, conclude_stopped]
  · rw [hts, bind_error, conclude_stopped]

end

/-- Past the checks common to all constructors, the body and its length decide. -/
theorem make_of_commonOk (h : CommonOk s a) (body : Except Stop Body) : make a body s = conclude s (do
      let b ← body
      refuseIf (s.params.lenMax < 14 + 7 * a.rpt.length + (bodyBytes b).length) .tooLong
      .ok ((sampled s a).deliver a.d (built s a b) false)) := by
  obtain ⟨hd, hdest, hsrc, hrpt, hcount, hts, hdl⟩ := h
  rw [make_of_addresses hd hdest hsrc hrpt, (refuseIf_eq_ok _ _ ()).2 (Nat.not_lt.2 hcount), bind_ok,
    (checkTimeOpt_eq_ok s a.ts ()).2 hts, bind_ok, (checkTimeOpt_eq_ok s a.dl ()).2 hdl, bind_ok]

/-! ## `mk_common` around one check and one body -/

variable {c : Prop} [Decidable c] {r : RefuseReason} {b : Body} {n : Nat}

theorem make_of_refused (h : CommonOk s a) (hc : c) :
    make a (refuseIf c r >>= fun _ => .ok b) s = .next (stopped s (.refuse r)) := by
  rw [make_of_commonOk h, (refuseIf_eq_error _ _ _).2 ⟨hc, rfl⟩, bind_error, bind_error, conclude_stopped]

theorem make_of_not_fits (h : CommonOk s a) (hc : ¬ c) (hlen : (bodyBytes b).length = n) (hfits : ¬ Fits s a n) :
    make a (refuseIf c r >>= fun _ => .ok b) s = .next (stopped s (.refuse .tooLong)) := by
  subst hlen
  rw [make_of_commonOk h, (refuseIf_eq_ok _ _ ()).2 hc, bind_ok, bind_ok,
    (refuseIf_eq_error _ _ _).2 ⟨Nat.not_le.1 hfits, rfl⟩, bind_error, conclude_stopped]

theorem builds_of_fits (h : CommonOk s a) (hc : ¬ c) (hlen : (bodyBytes b).length = n) (hfits : Fits s a n) :
    Builds (make a (refuseIf c r >>= fun _ => .ok b) s) s a b := by
  subst hlen
  rw [Builds, make_of_commonOk h, (refuseIf_eq_ok _ _ ()).2 hc, bind_ok, bind_ok,
    (refuseIf_eq_ok _ _ ()).2 (Nat.not_lt.2 hfits), bind_ok, conclude_ok, deliver_sampled]

end

/-! ## Field operands as one check (R202 to R212) -/

theorem asBits_eq_refuseIf (n v : Nat) :
    asBits n v = (refuseIf (2 ^ n ≤ v) .fieldRange >>= fun _ => .ok (BitVec.ofNat n v)) := by
  by_cases h : 2 ^ n ≤ v <;> simp [asBits, refuseIf, h]

theorem asPf_eq_refuseIf (pf : Option Nat) :
    asPf pf = (refuseIf (1 < pf.getD 0) .fieldRange >>= fun _ => .ok (pf.getD 0 == 1)) := by
  cases pf with
  | none => rfl
  | some v => by_cases h : 1 < v <;> simp [asPf, refuseIf, h]

theorem refuseIf_bind_refuseIf {α : Type} (c d : Prop) [Decidable c] [Decidable d] (r : RefuseReason)
    (f : Unit → Except Stop α) :
    (refuseIf c r >>= fun _ => refuseIf d r >>= f) = (refuseIf (c ∨ d) r >>= f) := by
  by_cases hc : c <;> simp [refuseIf, hc]

/-! ## Each constructor as `mk_common` around one check and one body -/

section
variable (a : MkArgs) (ns nr : Nat) (pf : Option Nat) (pid : Nat) (s : State)

theorem exec_mkraw :
    exec (.mkraw a) s = make a (refuseIf (s.ilen < 1) .emptyRawPayload >>= fun _ => .ok (.raw s.input)) s := rfl

theorem exec_mkui : exec (.mkui a pf pid) s =
    make a (refuseIf (2 ^ 8 ≤ pid ∨ 1 < pf.getD 0) .fieldRange >>= fun _ =>
      .ok (.ui (pf.getD 0 == 1) (BitVec.ofNat 8 pid) s.input)) s := by
  show execMkui a pf pid s = _
  simp only [execMkui, asBits_eq_refuseIf, asPf_eq_refuseIf, bind_assoc, bind_ok, refuseIf_bind_refuseIf]

theorem exec_mki8 : exec (.mki8 a ns nr pf pid) s =
    make a (refuseIf (2 ^ 3 ≤ ns ∨ 2 ^ 3 ≤ nr ∨ 1 < pf.getD 0 ∨ 2 ^ 8 ≤ pid) .fieldRange >>= fun _ =>
      .ok (.i8 (BitVec.ofNat 3 ns) (BitVec.ofNat 3 nr) (pf.getD 0 == 1) (BitVec.ofNat 8 pid) s.input)) s := by
  show execMki8 a ns nr pf pid s = _
  simp only [execMki8, asBits_eq_refuseIf, asPf_eq_refuseIf, bind_assoc, bind_ok, refuseIf_bind_refuseIf]

theorem exec_mki16 : exec (.mki16 a ns nr pf pid) s =
    make a (refuseIf (2 ^ 7 ≤ ns ∨ 2 ^ 7 ≤ nr ∨ 1 < pf.getD 0 ∨ 2 ^ 8 ≤ pid) .fieldRange >>= fun _ =>
      .ok (.i16 (BitVec.ofNat 7 ns) (BitVec.ofNat 7 nr) (pf.getD 0 == 1) (BitVec.ofNat 8 pid) s.input)) s := by
  show execMki16 a ns nr pf pid s = _
  simp only [execMki16, asBits_eq_refuseIf, asPf_eq_refuseIf, bind_assoc, bind_ok, refuseIf_bind_refuseIf]

theorem makeS8_eq (st : Supervisory) : makeS8 st a nr pf s =
    make a (refuseIf (2 ^ 3 ≤ nr ∨ 1 < pf.getD 0) .fieldRange >>= fun _ =>
      .ok (.s8 st (BitVec.ofNat 3 nr) (pf.getD 0 == 1))) s := by
  simp only [makeS8, asBits_eq_refuseIf, asPf_eq_refuseIf, bind_assoc, bind_ok, refuseIf_bind_refuseIf]

theorem makeS16_eq (st : Supervisory) : makeS16 st a nr pf s =
    make a (refuseIf (2 ^ 7 ≤ nr ∨ 1 < pf.getD 0) .fieldRange >>= fun _ =>
      .ok (.s16 st (BitVec.ofNat 7 nr) (pf.getD 0 == 1))) s := by
  simp only [makeS16, asBits_eq_refuseIf, asPf_eq_refuseIf, bind_assoc, bind_ok, refuseIf_bind_refuseIf]

variable {a nr pf}

theorem exec_supervisory8 {i : Instr}
    (h : i ∈ ([.mkrr8 a nr pf, .mkrnr8 a nr pf, .mkrej8 a nr pf, .mksrej8 a nr pf] : List Instr)) :
    ∃ st, exec i s = makeS8 st a nr pf s := by
  simp only [List.mem_cons, List.not_mem_nil, or_false] at h
  obtain rfl | rfl | rfl | rfl := h <;> exact ⟨_, rfl⟩

theorem exec_supervisory16 {i : Instr}
    (h : i ∈ ([.mkrr16 a nr pf, .mkrnr16 a nr pf, .mkrej16 a nr pf, .mksrej16 a nr pf] : List Instr)) :
    ∃ st, exec i s = makeS16 st a nr pf s := by
  simp only [List.mem_cons, List.not_mem_nil, or_false] at h
  obtain rfl | rfl | rfl | rfl := h <;> exact ⟨_, rfl⟩

end

/-! ## What each constructor builds -/

/-- Settles O35: the payload is what `IBUF` holds, and is not empty. -/
theorem mkrawBuildsARawFrame : Obligations.MkrawBuildsARawFrame := by
  refine fun a s => ⟨rfl, fun hcommon hilen hfits => ?_⟩
  rw [exec_mkraw]
  exact builds_of_fits hcommon (Nat.not_lt.2 hilen) (input_length s) hfits

theorem bodyBytes_ui_input_length (s : State) (pf : Bool) (pid : Byte) :
    (bodyBytes (.ui pf pid s.input)).length = 2 + s.ilen := by
  rw [bodyBytes, List.length_append, input_length]; rfl

theorem bodyBytes_i8_input_length (s : State) (ns nr : BitVec 3) (pf : Bool) (pid : Byte) :
    (bodyBytes (.i8 ns nr pf pid s.input)).length = 2 + s.ilen := by
  rw [bodyBytes, List.length_append, input_length]; rfl

theorem bodyBytes_i16_input_length (s : State) (ns nr : BitVec 7) (pf : Bool) (pid : Byte) :
    (bodyBytes (.i16 ns nr pf pid s.input)).length = 3 + s.ilen := by
  rw [bodyBytes, List.length_append, input_length]; rfl

/-- Settles O36: operands in their ranges pass the one check. -/
theorem mkuiBuildsAnUnnumberedInformationFrame : Obligations.MkuiBuildsAnUnnumberedInformationFrame := by
  refine fun a pf pid s => ⟨rfl, fun hcommon hpf hpid hfits => ?_⟩
  rw [exec_mkui]
  exact builds_of_fits hcommon (by omega) (bodyBytes_ui_input_length s _ _) hfits

/-- Settles O37: operands in their ranges pass the one check, of 3 or of 7 bits. -/
theorem mkiBuildsInformationFrames : Obligations.MkiBuildsInformationFrames := by
  refine fun a ns nr pf pid s => ⟨rfl, rfl, fun hcommon hns hnr hpf hpid hfits => ?_,
    fun hcommon hns hnr hpf hpid hfits => ?_⟩
  · rw [exec_mki8]
    exact builds_of_fits hcommon (by omega) (bodyBytes_i8_input_length s _ _ _ _) hfits
  · rw [exec_mki16]
    exact builds_of_fits hcommon (by omega) (bodyBytes_i16_input_length s _ _ _ _) hfits

/-- Settles O38: each row is the supervisory constructor of its subtype. -/
theorem mkBuildsSupervisoryFramesModulo8 : Obligations.MkBuildsSupervisoryFramesModulo8 := by
  intro row hrow a nr pf s
  have hinstr : commandCode (row.2.1 a nr pf) = some row.2.2 ∧ exec (row.2.1 a nr pf) s = makeS8 row.1 a nr pf s := by
    simp only [List.mem_cons, List.not_mem_nil, or_false] at hrow
    obtain rfl | rfl | rfl | rfl := hrow <;> exact ⟨rfl, rfl⟩
  obtain ⟨hcode, hexec⟩ := hinstr
  refine ⟨hcode, fun hcommon hnr hpf hfits => ?_⟩
  rw [hexec, makeS8_eq]
  exact builds_of_fits hcommon (by omega) rfl hfits

/-- Settles O39: each row is the supervisory constructor of its subtype. -/
theorem mkBuildsSupervisoryFramesModulo128 : Obligations.MkBuildsSupervisoryFramesModulo128 := by
  intro row hrow a nr pf s
  have hinstr : commandCode (row.2.1 a nr pf) = some row.2.2 ∧ exec (row.2.1 a nr pf) s = makeS16 row.1 a nr pf s := by
    simp only [List.mem_cons, List.not_mem_nil, or_false] at hrow
    obtain rfl | rfl | rfl | rfl := hrow <;> exact ⟨rfl, rfl⟩
  obtain ⟨hcode, hexec⟩ := hinstr
  refine ⟨hcode, fun hcommon hnr hpf hfits => ?_⟩
  rw [hexec, makeS16_eq]
  exact builds_of_fits hcommon (by omega) rfl hfits

/-! ## What each constructor refuses -/

/-- Settles O40: the checks common to all constructors in their order, then the constructor's own, then the length. -/
theorem constructorsAreRefusedInOrder : Obligations.ConstructorsAreRefusedInOrder := by
  refine fun a ns nr pf pid s => ⟨fun hbad i hi => ?_, fun hd hdest hsrc hrpt hcount i hi => ?_,
    fun hd hdest hsrc hrpt hcount hwide i hi => ?_, fun hcommon =>
      ⟨fun hilen => ?_, fun h => ?_, fun h => ?_, fun h => ?_, fun h i hi => ?_, fun h i hi => ?_,
        fun hilen hfits => ?_, fun hpf hpid hfits => ?_, fun hns hnr hpf hpid hfits => ?_,
        fun hns hnr hpf hpid hfits => ?_, fun hnr hpf hfits i hi => ?_, fun hnr hpf hfits i hi => ?_⟩⟩
  · obtain ⟨body, hexec⟩ := exec_constructor hi s
    exact hexec.trans (make_of_bad_slot hbad body)
  · obtain ⟨body, hexec⟩ := exec_constructor hi s
    exact hexec.trans (make_of_tooManyRepeaters hd hdest hsrc hrpt hcount body)
  · obtain ⟨body, hexec⟩ := exec_constructor hi s
    exact hexec.trans (make_of_wide_metadata hd hdest hsrc hrpt hcount hwide body)
  · exact (exec_mkraw a s).trans (make_of_refused hcommon (by omega))
  · exact (exec_mkui a pf pid s).trans (make_of_refused hcommon (by omega))
  · exact (exec_mki8 a ns nr pf pid s).trans (make_of_refused hcommon (by omega))
  · exact (exec_mki16 a ns nr pf pid s).trans (make_of_refused hcommon (by omega))
  · obtain ⟨st, hexec⟩ := exec_supervisory8 s hi
    rw [hexec, makeS8_eq]
    exact make_of_refused hcommon (by omega)
  · obtain ⟨st, hexec⟩ := exec_supervisory16 s hi
    rw [hexec, makeS16_eq]
    exact make_of_refused hcommon (by omega)
  · exact (exec_mkraw a s).trans (make_of_not_fits hcommon (Nat.not_lt.2 hilen) (input_length s) hfits)
  · exact (exec_mkui a pf pid s).trans
      (make_of_not_fits hcommon (by omega) (bodyBytes_ui_input_length s _ _) hfits)
  · exact (exec_mki8 a ns nr pf pid s).trans
      (make_of_not_fits hcommon (by omega) (bodyBytes_i8_input_length s _ _ _ _) hfits)
  · exact (exec_mki16 a ns nr pf pid s).trans
      (make_of_not_fits hcommon (by omega) (bodyBytes_i16_input_length s _ _ _ _) hfits)
  · obtain ⟨st, hexec⟩ := exec_supervisory8 s hi
    rw [hexec, makeS8_eq]
    exact make_of_not_fits hcommon (by omega) rfl hfits
  · obtain ⟨st, hexec⟩ := exec_supervisory16 s hi
    rw [hexec, makeS16_eq]
    exact make_of_not_fits hcommon (by omega) rfl hfits

end Sys2Proof.Machine
end

section
/-! Proofs about the assembler's operations on a slot (43_frame_assembler.md R215 to R219; 20_memory.md R56). -/

namespace Sys2Proof.Machine

open Sys2Proof.Claims

theorem fullSlot_of_le {s : State} {i : Nat} (h : s.slots.length ≤ i) : fullSlot s i = .error (.refuse .badSlot) :=
  if_pos h

theorem fullSlot_of_frame {s : State} {i : Nat} {f : Frame} (h : s.slots[i]? = some (some f)) : fullSlot s i = .ok f :=
  (fullSlot_eq_ok s i f).2 h

/-- An operation on the frame of a slot is refused where there is no slot, and where there is no frame (R265). -/
theorem conclude_fullSlot_refused (s : State) (src : Nat) (rest : Frame → Except Stop State) :
    (s.slots.length ≤ src → conclude s (fullSlot s src >>= rest) = .next (stopped s (.refuse .badSlot))) ∧
    (s.slots[src]? = some none → conclude s (fullSlot s src >>= rest) = .next (stopped s (.refuse .emptySlot))) :=
  ⟨fun h => by rw [fullSlot_of_le h, bind_error, conclude_stopped],
   fun h => by rw [fullSlot_of_empty h, bind_error, conclude_stopped]⟩

/-- A slot that can be looked up is inside the block. -/
theorem slot_eq_of_getElem? {s : State} {i : Nat} {v : Option Frame} (h : s.slots[i]? = some v) :
    i < s.slots.length ∧ s.slot i = v := by
  obtain ⟨hi, -⟩ := List.getElem?_eq_some_iff.1 h
  exact ⟨hi, by rw [State.slot, List.getD_eq_getElem?_getD, h, Option.getD_some]⟩

/-! ## `FENC` (R215) -/

/-- Settles O43: a valid frame's octets fit. -/
theorem fencWritesTheFramesOctets : Obligations.FencWritesTheFramesOctets := by
  intro src s
  obtain ⟨hbad, hempty⟩ := conclude_fullSlot_refused s src fun f => s.produce (frameBytes f)
  refine ⟨rfl, hbad, hempty, fun f hf hvalid => ?_⟩
  show Produces (execFenc src s) s _
  rw [execFenc, fullSlot_of_frame hf, bind_ok]
  exact produces_of_length_le (frameBytes_length_le hvalid)

/-! ## `FCPY` (R216) -/

/-- Settles O44: the checks of both slots, then the frame as it stands. -/
theorem fcpyCopiesEveryField : Obligations.FcpyCopiesEveryField := by
  refine fun d src s => ⟨rfl, fun hbad => ?_, fun hd hempty => ?_, fun f hd hf => ?_⟩ <;> show execFcpy d src s = _
  · by_cases hd : s.slots.length ≤ d
    · rw [execFcpy, checkSlot_of_le hd, bind_error, conclude_stopped]
    · rw [execFcpy, checkSlot_of_lt (Nat.not_le.1 hd), bind_ok, checkSlot_of_le (hbad.resolve_left hd), bind_error,
        conclude_stopped]
  · obtain ⟨hsrc, -⟩ := slot_eq_of_getElem? hempty
    rw [execFcpy, checkSlot_of_lt hd, bind_ok, checkSlot_of_lt hsrc, bind_ok, fullSlot_of_empty hempty, bind_error,
      conclude_stopped]
  · obtain ⟨hsrc, -⟩ := slot_eq_of_getElem? hf
    rw [execFcpy, checkSlot_of_lt hd, bind_ok, checkSlot_of_lt hsrc, bind_ok, fullSlot_of_frame hf, bind_ok,
      conclude_ok, deliver_eq]

/-! ## `FSTR` (R217) -/

theorem astr_eq_addressText (a : Address) : astr a = addressText a.call a.ssid.toNat := by
  have hssid : a.ssid.toNat ≤ 15 := Nat.le_of_lt_succ a.ssid.isLt
  simpa [theAddress] using astr_theAddress (a := ⟨a.call, a.ssid.toNat, a.ch, a.rsv, a.ext⟩) hssid

theorem fstr_eq (f : Frame) : fstr f =
    addressText f.src.call f.src.ssid.toNat ++ [0x3E] ++ addressText f.dest.call f.dest.ssid.toNat := by
  rw [fstr, astr_eq_addressText, astr_eq_addressText, List.append_assoc, List.singleton_append]

/-- Nine octets an address text, and one between them. -/
theorem fstr_length_le {p : Params} {f : Frame} (h : validFrame p f = true) : (fstr f).length ≤ 19 := by
  obtain ⟨hdest, hsrc, -⟩ := (validFrame_iff p f).1 h
  obtain ⟨-, hdestLen, -⟩ := (validCall_iff _).1 hdest
  obtain ⟨-, hsrcLen, -⟩ := (validCall_iff _).1 hsrc
  have hdestText := addressText_length_le (ssid := f.dest.ssid.toNat) hdestLen
  have hsrcText := addressText_length_le (ssid := f.src.ssid.toNat) hsrcLen
  rw [fstr_eq, List.length_append, List.length_append, List.length_singleton]
  omega

theorem produce_of_tooLong {s : State} {r : List Byte} (h : s.params.lenMax < r.length) :
    s.produce r = .error (.refuse .tooLong) :=
  if_pos h

/-- Settles O45: the text is R98's of both addresses, produced if it fits. -/
theorem fstrWritesSourceAndDestination : Obligations.FstrWritesSourceAndDestination := by
  intro src s
  obtain ⟨hbad, hempty⟩ := conclude_fullSlot_refused s src fun f => s.produce (fstr f)
  refine ⟨rfl, hbad, hempty, fun f text hf htext => ?_⟩
  rw [← fstr_eq] at htext
  subst htext
  have hexec : exec (.fstr src) s = conclude s (s.produce (fstr f)) := by
    show execFstr src s = _
    rw [execFstr, fullSlot_of_frame hf, bind_ok]
  rw [hexec]
  exact ⟨fstr_length_le, produces_of_length_le, fun hlong => by rw [produce_of_tooLong hlong, conclude_stopped]⟩

/-! ## `FGET` (R218) -/

theorem execFget_of_slot {src : Nat} {s : State} {v : Option Frame} (h : s.slots[src]? = some v) :
    execFget src s = .next (s.answer false (slotCode v) (.frame (v.map frameRecord))) := by
  obtain ⟨hsrc, rfl⟩ := slot_eq_of_getElem? h
  rw [execFget, checkSlot_of_lt hsrc, bind_ok, conclude_ok]

/-- Settles O46: the slot check, then the record of what the slot holds. -/
theorem fgetReturnsTheRecord : Obligations.FgetReturnsTheRecord := by
  refine fun src s => ⟨rfl, fun hbad => ?_, fun hempty => ?_, fun f hf => ?_⟩ <;> show execFget src s = _
  · rw [execFget, checkSlot_of_le hbad, bind_error, conclude_stopped]
  · rw [execFget_of_slot hempty]; rfl
  · rw [execFget_of_slot hf]; rfl

/-! ## `FFREE` (R219) -/

/-- Settles O47: the slot check alone decides. -/
theorem ffreeEmptiesTheSlot : Obligations.FfreeEmptiesTheSlot := by
  refine fun d s => ⟨rfl, fun hbad => ?_, fun hd => ?_⟩ <;> show execFfree d s = _
  · rw [execFfree, checkSlot_of_le hbad, bind_error, conclude_stopped]
  · rw [execFfree, checkSlot_of_lt hd, bind_ok, conclude_ok]
    rfl

end Sys2Proof.Machine
end

section
/-! Proofs about the frame metadata (44_frame_metadata.md R241 to R245): the four operations that read and write a
frame's timestamp and deadline, and that a set deadline outlasts every operation that does not replace its slot. -/

namespace Sys2Proof.Machine

open Sys2Proof.Claims

/-! ## What may happen to a frame that stays in its slot (R245) -/

/-- Frame `g` is frame `f` with other metadata at most, and a deadline set in `f` is `g`'s deadline too. -/
def KeepsSetDeadline (f g : Frame) : Prop :=
  g = { f with ts := g.ts, dl := g.dl } ∧ ∀ v, f.dl = some v → g.dl = some v

theorem KeepsSetDeadline.refl (f : Frame) : KeepsSetDeadline f f := ⟨rfl, fun _ h => h⟩

theorem KeepsSetDeadline.trans {f g h : Frame} (hfg : KeepsSetDeadline f g) (hgh : KeepsSetDeadline g h) :
    KeepsSetDeadline f h := by
  obtain ⟨hg, hgdl⟩ := hfg
  obtain ⟨hh, hhdl⟩ := hgh
  exact ⟨hh.trans (by rw [hg]), fun v hv => hhdl v (hgdl v hv)⟩

theorem keepsSetDeadline_setTs (f : Frame) (v : Nat) : KeepsSetDeadline f { f with ts := v } := ⟨rfl, fun _ h => h⟩

/-- `SETDL` writes an unset deadline only, so there is no set one to lose. -/
theorem keepsSetDeadline_setDl {f : Frame} (h : f.dl = none) (v : Nat) :
    KeepsSetDeadline f { f with dl := some v } :=
  ⟨rfl, fun w hw => by rw [h] at hw; cases hw⟩

/-- Slot `j` of both states holds a frame, the second keeping the set deadline of the first. -/
def SlotKeepsSetDeadline (j : Nat) (s t : State) : Prop :=
  ∀ f, s.slots[j]? = some (some f) → ∃ g, t.slots[j]? = some (some g) ∧ KeepsSetDeadline f g

theorem SlotKeepsSetDeadline.trans {j : Nat} {s t u : State} (hst : SlotKeepsSetDeadline j s t)
    (htu : SlotKeepsSetDeadline j t u) : SlotKeepsSetDeadline j s u := by
  intro f hf
  obtain ⟨g, hg, hfg⟩ := hst f hf
  obtain ⟨h, hh, hgh⟩ := htu g hg
  exact ⟨h, hh, hfg.trans hgh⟩

theorem slotKeepsSetDeadline_of_getElem?_eq {j : Nat} {s t : State} (h : t.slots[j]? = s.slots[j]?) :
    SlotKeepsSetDeadline j s t :=
  fun f hf => ⟨f, h.trans hf, .refl f⟩

theorem slotKeepsSetDeadline_of_set_ne {j d : Nat} {s t : State} {v : Option Frame} (hd : d ≠ j)
    (ht : t.slots = s.slots.set d v) : SlotKeepsSetDeadline j s t :=
  slotKeepsSetDeadline_of_getElem?_eq (by rw [ht, List.getElem?_set_ne hd])

/-- A frame rewritten in its own slot, be it slot `j` or another. -/
theorem slotKeepsSetDeadline_of_rewrite {j src : Nat} {s t : State} {f g : Frame}
    (hf : s.slots[src]? = some (some f)) (hfg : KeepsSetDeadline f g) (ht : t.slots = s.slots.set src (some g)) :
    SlotKeepsSetDeadline j s t := by
  by_cases hj : src = j
  · subst hj
    intro f' hf'
    obtain rfl : f = f' := Option.some.inj (Option.some.inj (hf.symm.trans hf'))
    obtain ⟨hsrc, -⟩ := slot_eq_of_getElem? hf
    exact ⟨g, by rw [ht, List.getElem?_set_self hsrc], hfg⟩
  · exact slotKeepsSetDeadline_of_set_ne hj ht

/-- One operation that does not replace slot `j`: of the four ways of R35, only `SETTS` and `SETDL` can reach it. -/
theorem slotKeepsSetDeadline_of_exec {i : Instr} {s t : State} {j : Nat} (hexec : exec i s = .next t)
    (hi : replacedSlot i ≠ some j) : SlotKeepsSetDeadline j s t := by
  obtain ⟨-, hslots | ⟨d, f, hd, -, ht⟩ | ⟨d, rfl, ht⟩ | ⟨src, v, f, -, hf, ht⟩ | ⟨src, v, f, -, hf, hdl, ht⟩⟩ :=
    slotsChangeInFourWaysOnly i s t hexec
  · exact slotKeepsSetDeadline_of_getElem?_eq (by rw [hslots])
  · exact slotKeepsSetDeadline_of_set_ne (fun h => hi (h ▸ hd)) ht
  · exact slotKeepsSetDeadline_of_set_ne (fun h => hi (congrArg some h)) ht
  · exact slotKeepsSetDeadline_of_rewrite hf (keepsSetDeadline_setTs f v) ht
  · exact slotKeepsSetDeadline_of_rewrite hf (keepsSetDeadline_setDl hdl v) ht

/-- A sequence ends in a next state exactly when its first operation does and the rest does from there. -/
theorem perform_cons_eq_next (i : Instr) (is : List Instr) (s t : State) :
    perform (i :: is) s = .next t ↔ ∃ u, exec i s = .next u ∧ perform is u = .next t := by
  rw [perform]
  cases exec i s <;> simp

theorem slotKeepsSetDeadline_of_perform {j : Nat} {is : List Instr} {s t : State} (hperform : perform is s = .next t)
    (his : ∀ i ∈ is, replacedSlot i ≠ some j) : SlotKeepsSetDeadline j s t := by
  induction is generalizing s with
  | nil =>
    obtain rfl : s = t := Host.Outcome.next.inj hperform
    exact slotKeepsSetDeadline_of_getElem?_eq rfl
  | cons i is ih =>
    obtain ⟨u, hexec, hrest⟩ := (perform_cons_eq_next i is s t).1 hperform
    obtain ⟨hi, his⟩ := List.forall_mem_cons.1 his
    exact (slotKeepsSetDeadline_of_exec hexec hi).trans (ih hrest his)

/-- Settles O52: by induction on the sequence, one operation at a time. -/
theorem aSetDeadlineNeverChanges : Obligations.ASetDeadlineNeverChanges :=
  fun _is _s _t _j f hperform hf his => slotKeepsSetDeadline_of_perform hperform his f hf

/-! ## Checks of the two writing operations (R242, R244) -/

theorem checkTime_of_lt {s : State} {v : Nat} (h : v < 2 ^ s.params.tsW) : checkTime s v = .ok () :=
  (checkTime_eq_ok s v ()).2 h

theorem checkTime_of_le {s : State} {v : Nat} (h : 2 ^ s.params.tsW ≤ v) :
    checkTime s v = .error (.refuse .fieldRange) :=
  (refuseIf_eq_error _ _ _).2 ⟨h, rfl⟩

/-! ## `SETDL` (R244) -/

/-- Settles O51: the checks in their order, then the one write. -/
theorem setdlWritesTheDeadlineOnce : Obligations.SetdlWritesTheDeadlineOnce := by
  intro src v s
  obtain ⟨hbad, hempty⟩ := conclude_fullSlot_refused s src _
  refine ⟨rfl, hbad, hempty, fun f hf => ⟨fun hwide => ?_, fun hfits hset => ?_, fun hfits hunset => ?_⟩⟩ <;>
    show execSetdl src v s = _ <;> rw [execSetdl, fullSlot_of_frame hf, bind_ok]
  · rw [checkTime_of_le hwide, bind_error, conclude_stopped]
  · rw [checkTime_of_lt hfits, bind_ok, (raiseIf_eq_error _ _ _).2 ⟨hset, rfl⟩, bind_error, conclude_stopped]
  · rw [checkTime_of_lt hfits, bind_ok, (raiseIf_eq_ok _ _ ()).2 (not_not.2 hunset), bind_ok, conclude_ok,
      answer_false_zero]
    rfl

/-! ## `GETTS` (R241) -/

/-- Settles O48: the slot checks, then the frame's timestamp. -/
theorem gettsReturnsTheTimestamp : Obligations.GettsReturnsTheTimestamp := by
  intro src s
  obtain ⟨hbad, hempty⟩ := conclude_fullSlot_refused s src _
  refine ⟨rfl, hbad, hempty, fun f hf => ?_⟩
  show execGetts src s = _
  rw [execGetts, fullSlot_of_frame hf, bind_ok, conclude_ok, answer_false_zero]

/-! ## `SETTS` (R242) -/

/-- Settles O49: the checks in their order, then the write. -/
theorem settsWritesTheTimestamp : Obligations.SettsWritesTheTimestamp := by
  intro src v s
  obtain ⟨hbad, hempty⟩ := conclude_fullSlot_refused s src _
  refine ⟨rfl, hbad, hempty, fun f hf => ⟨fun hwide => ?_, fun hfits => ?_⟩⟩ <;>
    show execSetts src v s = _ <;> rw [execSetts, fullSlot_of_frame hf, bind_ok]
  · rw [checkTime_of_le hwide, bind_error, conclude_stopped]
  · rw [checkTime_of_lt hfits, bind_ok, conclude_ok, answer_false_zero]
    rfl

/-! ## `GETDL` (R243) -/

/-- Settles O50: the slot checks, then the frame's deadline, set or not. -/
theorem getdlReturnsTheDeadline : Obligations.GetdlReturnsTheDeadline := by
  intro src s
  obtain ⟨hbad, hempty⟩ := conclude_fullSlot_refused s src _
  refine ⟨rfl, hbad, hempty, fun f hf => ?_⟩
  show execGetdl src s = _
  rw [execGetdl, fullSlot_of_frame hf, bind_ok, conclude_ok, answer_false_zero]

end Sys2Proof.Machine
end

section
/-! Proofs about `UCF` (60_exceptions.md R264; 10_state.md R29): an operation sets it only when it reports a control
field no format claims, and then its `STATUS` and response are the ones R264 gives. -/

namespace Sys2Proof.Machine

open Sys2Proof.Claims

/-! ## `UCF` at the end of an operation -/

@[simp] theorem statusUcf_okStatus (ucf : Bool) (var : BitVec 4) : statusUcf (okStatus ucf var) = ucf := by
  revert ucf var; decide

/-- `UCF` where no slot is written (R264). -/
theorem okStatus_true_zero : okStatus true 0 = 0x08 := by decide

/-- `UCF` beside the code of a raw frame. -/
theorem okStatus_true_raw : okStatus true (variantCode .raw) = 0x18 := by decide

/-- No fault and no refusal sets `UCF` (R266). -/
theorem statusUcf_stopStatus (e : Stop) : statusUcf (stopStatus e) = false := by
  have clear (c : BitVec 3) : statusUcf (statusWord c false 0) = false := by revert c; decide
  exact clear (stopCode e)

/-- With `UCF` set, the operation has had its own effect. -/
theorem eq_ok_of_conclude {s t : State} {r : Except Stop State} (h : conclude s r = .next t)
    (hu : statusUcf t.status = true) : r = .ok t := by
  obtain hr | ⟨e, -, rfl⟩ := (conclude_eq_next s r t).1 h
  · exact hr
  · simp [statusUcf_stopStatus] at hu

/-! ## Computations that leave `UCF` clear -/

/-- Where the computation ends `ok`, `UCF` is 0. -/
def Unmarked (r : Except Stop State) : Prop := ∀ t, r = .ok t → statusUcf t.status = false

theorem Unmarked.bind {α : Type} {x : Except Stop α} {f : α → Except Stop State}
    (h : ∀ a, x = .ok a → Unmarked (f a)) : Unmarked (x >>= f) := by
  intro t ht
  obtain ⟨a, ha, hf⟩ := (bind_eq_ok x f t).1 ht
  exact h a ha t hf

theorem unmarked_answer (s : State) (var : BitVec 4) (r : Result) : Unmarked (.ok (s.answer false var r)) := by
  rintro _ ⟨⟩
  exact statusUcf_okStatus false var

theorem unmarked_produce (s : State) (r : List Byte) : Unmarked (s.produce r) := by
  intro t ht
  obtain ⟨-, rfl⟩ := (produce_eq_ok s t r).1 ht
  exact statusUcf_okStatus false 0

theorem unmarked_deliver (s : State) (d : Nat) (f : Frame) : Unmarked (.ok (s.deliver d f false)) :=
  unmarked_answer _ _ _

/-- Then the operation leaves it clear however it ends. -/
theorem Unmarked.conclude {s t : State} {r : Except Stop State} (hr : Unmarked r) (h : conclude s r = .next t) :
    statusUcf t.status = false := by
  obtain ht | ⟨e, -, rfl⟩ := (conclude_eq_next s r t).1 h
  · exact hr t ht
  · exact statusUcf_stopStatus e

/-! ## Instructions that never set `UCF` -/

theorem make_statusUcf {a : MkArgs} {body : Except Stop Body} {s t : State} (h : make a body s = .next t) :
    statusUcf t.status = false := by
  obtain ⟨_, _, _, _, -, -, -, -, -, -, -, -, -, rfl⟩ | ⟨e, rfl⟩ := make_cases a body s t h
  · exact statusUcf_okStatus false _
  · exact statusUcf_stopStatus e

/-- A field classified under the modulus it needs is claimed as itself (R155 (a)). -/
theorem classifyField_statusUcf {m : Modulus} {f : ControlField} {s t : State} (h : classifyField m f s = .next t)
    (hm : Needs f m) : statusUcf t.status = false := by
  have hclaim := ctlDec_of_claimed (claimed_ctlEnc_append hm [])
  rw [List.append_nil] at hclaim
  cases (conclude_classify_of_ok hclaim s).symm.trans h
  exact statusUcf_okStatus false 0

/-- The instructions that classify or promote octets some format may not claim. -/
def mayMarkUnclaimed : Instr → Bool
  | .ccls .. | .fdecb .. | .fdecf .. | .uother .. | .raw .. => true
  | _ => false

/-- Every other instruction leaves `UCF` clear. -/
theorem exec_statusUcf {i : Instr} {s t : State} (hi : mayMarkUnclaimed i = false) (h : exec i s = .next t) :
    statusUcf t.status = false := by
  cases i
  case ccls | fdecb | fdecf | uother | raw => cases hi
  case ui => exact classifyField_statusUcf h trivial
  case i8 | rr8 | rnr8 | rej8 | srej8 | i16 | rr16 | rnr16 | rej16 | srej16 =>
    simp only [exec, execI8, execRr8, execRnr8, execRej8, execSrej8, execI16, execRr16, execRnr16, execRej16,
      execSrej16] at h
    exact classifyField_statusUcf h rfl
  case aenc | astr | fenc | fstr => exact Unmarked.conclude (.bind fun _ _ => unmarked_produce _ _) h
  case amk | fget | ffree | getts | getdl => exact Unmarked.conclude (.bind fun _ _ => unmarked_answer _ _ _) h
  case adec | addr7 | setts =>
    exact Unmarked.conclude (.bind fun _ _ => .bind fun _ _ => unmarked_answer _ _ _) h
  case setdl =>
    exact Unmarked.conclude (.bind fun _ _ => .bind fun _ _ => .bind fun _ _ => unmarked_answer _ _ _) h
  case fparse => exact Unmarked.conclude (.bind fun _ _ => .bind fun _ _ => unmarked_deliver _ _ _) h
  case fcpy =>
    exact Unmarked.conclude (.bind fun _ _ => .bind fun _ _ => .bind fun _ _ => unmarked_deliver _ _ _) h
  all_goals exact make_statusUcf h

/-! ## The classifier and the promotion with `UCF` set -/

/-- The classifier sets it beside `unrecognised` alone. -/
theorem classify_of_statusUcf {s t : State} {m : Modulus} {p : List Byte} (h : classify s m p = .ok t)
    (hu : statusUcf t.status = true) : ∃ c, t.status = 0x08 ∧ t.resp = .ok (.classified c .unrecognised) := by
  obtain ⟨dec, -, rfl⟩ := (classify_eq_ok s t m p).1 h
  obtain rfl : dec = .unrecognised := by simpa using hu
  exact ⟨classOf (octet p 0), okStatus_true_zero, rfl⟩

/-- Of a frame of any variant, promotion sets it on a raw body alone. -/
theorem raw_of_promoteBody {b b' : Body} {m : Modulus} (h : promoteBody b m = .ok (b', true)) : ∃ p, b' = .raw p := by
  cases b
  case raw p =>
    obtain ⟨-, -, hraw⟩ := promote_ok (show promote p m = .ok (b', true) from h)
    exact ⟨p, hraw rfl⟩
  all_goals cases h

/-- A raw frame delivered with `UCF` set: `VAR` is 1, and the frame stands in its slot (R29). -/
theorem deliver_raw_marked {s : State} {d : Nat} {f : Frame} {p : List Byte} (hd : d < s.nslot)
    (hf : f.body = .raw p) : (s.deliver d f true).status = 0x18 ∧ (s.deliver d f true).resp = .ok .unit ∧
      (s.deliver d f true).slots[d]? = some (some f) := by
  refine ⟨?_, rfl, List.getElem?_set_self hd⟩
  rw [State.deliver_status, frameCode, hf]
  exact okStatus_true_raw

/-! ## The operations that set `UCF` -/

theorem execCcls_of_statusUcf {off : Option Nat} {sel : Option (BitVec 2)} {s t : State}
    (h : execCcls off sel s = .next t) (hu : statusUcf t.status = true) :
    ∃ c, t.status = 0x08 ∧ t.resp = .ok (.classified c .unrecognised) := by
  have hok := eq_ok_of_conclude h hu
  simp only [bind_eq_ok] at hok
  obtain ⟨_, -, _, -, hclassify⟩ := hok
  exact classify_of_statusUcf hclassify hu

theorem execRaw_of_statusUcf {m : Modulus} {p : List Byte} {s t : State} (h : execRaw m p s = .next t)
    (hu : statusUcf t.status = true) : t.status = 0x08 ∧ t.resp = .ok (.promoted (.raw p)) := by
  have hok := eq_ok_of_conclude h hu
  simp only [bind_eq_ok, Except.ok.injEq] at hok
  obtain ⟨⟨b, ucf⟩, hpromote, rfl⟩ := hok
  obtain rfl : ucf = true := by simpa using hu
  obtain ⟨-, -, hraw⟩ := promote_ok hpromote
  obtain rfl := hraw rfl
  exact ⟨okStatus_true_zero, rfl⟩

theorem execFdecb_of_statusUcf {d : Nat} {sel : Option (BitVec 2)} {s t : State} (h : execFdecb d sel s = .next t)
    (hu : statusUcf t.status = true) : ∃ f p, t.status = 0x18 ∧ t.resp = .ok .unit ∧
      t.slots[d]? = some (some f) ∧ f.body = .raw p := by
  have hok := eq_ok_of_conclude h hu
  simp only [bind_eq_ok, checkSlot_eq_ok, Except.ok.injEq] at hok
  obtain ⟨-, hd, m, -, ⟨r, body, ucf⟩, hdecode, rfl⟩ := hok
  obtain rfl : ucf = true := by simpa using hu
  obtain ⟨-, hpromote⟩ := decodeFrame_eq_ok_iff.1 hdecode
  obtain ⟨-, -, hraw⟩ := promote_ok hpromote
  have hbody : (r.frame body s.timeNow).body = .raw r.payload := hraw rfl
  obtain ⟨hstatus, hresp, hslot⟩ := deliver_raw_marked (s := s.timeTaken) hd hbody
  exact ⟨_, _, hstatus, hresp, hslot, hbody⟩

theorem execFdecf_of_statusUcf {d src : Nat} {sel : Option (BitVec 2)} {s t : State}
    (h : execFdecf d src sel s = .next t) (hu : statusUcf t.status = true) :
    ∃ f p, t.status = 0x18 ∧ t.resp = .ok .unit ∧ t.slots[d]? = some (some f) ∧ f.body = .raw p := by
  have hok := eq_ok_of_conclude h hu
  simp only [bind_eq_ok, checkSlot_eq_ok, Except.ok.injEq] at hok
  obtain ⟨-, hd, -, -, m, -, f, -, ⟨body, ucf⟩, hpromote, rfl⟩ := hok
  obtain rfl : ucf = true := by simpa using hu
  obtain ⟨p, rfl⟩ := raw_of_promoteBody hpromote
  obtain ⟨hstatus, hresp, hslot⟩ := deliver_raw_marked (f := { f with body := .raw p }) hd rfl
  exact ⟨_, p, hstatus, hresp, hslot, rfl⟩

/-- Settles O56: five instructions can set `UCF`, each as its lemma above says. -/
theorem ucfMarksUnclaimedControlFieldsOnly : Obligations.UcfMarksUnclaimedControlFieldsOnly := by
  intro i s t h hu
  cases i
  case fdecb d sel =>
    obtain ⟨f, p, hrest⟩ := execFdecb_of_statusUcf h hu
    exact .inl ⟨d, sel, f, p, .inl rfl, hrest⟩
  case fdecf d src sel =>
    obtain ⟨f, p, hrest⟩ := execFdecf_of_statusUcf h hu
    exact .inl ⟨d, sel, f, p, .inr ⟨src, rfl⟩, hrest⟩
  case ccls off sel =>
    obtain ⟨c, hstatus, hresp⟩ := execCcls_of_statusUcf h hu
    exact .inr (.inl ⟨c, hstatus, hresp, .inl ⟨off, sel, rfl⟩⟩)
  case uother c0 =>
    obtain ⟨c, hstatus, hresp⟩ := classify_of_statusUcf (eq_ok_of_conclude h hu) hu
    exact .inr (.inl ⟨c, hstatus, hresp, .inr ⟨c0, rfl⟩⟩)
  case raw m p => exact .inr (.inr ⟨m, p, rfl, execRaw_of_statusUcf h hu⟩)
  all_goals exact absurd ((exec_statusUcf rfl h).symm.trans hu) nofun

end Sys2Proof.Machine
end
